-- ==== Sys2Proof/Word.lean ====
section
/-! DEFINITION. The bit-vector widths of the link core (00_scope.md R7, R8): every register and operand is unsigned. -/

namespace Sys2Proof

/-- One byte: a wire byte, a marker, an operand byte, a motor value (R37, `MOTOR_WIDTH`). -/
abbrev Byte := BitVec 8

/-- The 4-bit value of one hex digit (R69). -/
abbrev Nibble := BitVec 4

/-- A 16-bit value: a running CRC, a capacity, a length (R7 `CRC_WIDTH`, R66). -/
abbrev Half := BitVec 16

/-- A 32-bit value: the hex accumulator, a command code, a PID component (R7 `ACC_WIDTH`). -/
abbrev Word := BitVec 32

/-- The 64 bits of an IEEE-754 binary64 number, the `f64` of a PID component (R74). -/
abbrev Binary64 := BitVec 64

end Sys2Proof
end

