-- ==== Sys2Proof/Config.lean ====
section
/-! DEFINITION. What an implementation fixes: the parameters of 00_scope.md R7, the frame markers' shape and defaults, and
the free value the spec leaves open (an opaque constant with no body). -/

namespace Sys2Proof

/-- The three frame markers of an instance (R19). -/
structure Markers where
  start : Byte
  sep : Byte
  fin : Byte
deriving DecidableEq, Repr

/-- `START_DEFAULT`, `SEP_DEFAULT`, `END_DEFAULT` (R7, R19). -/
def Markers.default : Markers := ⟨0x02#8, 0x1F#8, 0x03#8⟩

/-- The OPEN code parameters of R7 (D7, D8): plain data, so that a claim over every `Params` is a claim over every choice. -/
structure Params where
  cmdMotor : Word
  cmdPid : Word
  subRollPitch : Byte
  subYaw : Byte
  subAngle : Byte
deriving DecidableEq, Repr, Inhabited

/-- The only constraint R7 lets a model assume of the OPEN codes. -/
abbrev Params.Legal (p : Params) : Prop :=
  p.cmdMotor ≠ p.cmdPid ∧ p.subRollPitch ≠ p.subYaw ∧ p.subRollPitch ≠ p.subAngle ∧ p.subYaw ≠ p.subAngle

/-- The example values the spec's test vectors use (R7, 95_test_vectors.md); they carry no authority. -/
def Params.sample : Params := ⟨1#32, 2#32, 1#8, 2#8, 3#8⟩

namespace Config

/-- `CRC_POLY` (R7, R59). -/
def crcPoly : Half := 0x1021#16

/-- `CRC_INIT` (R7, R60). -/
def crcInit : Half := 0xFFFF#16

/-- `MOTOR_FIELDS` and `PID_FIELDS` (R7), the bound of the field index (C7). -/
def payloadFields : Nat := 4

/-- `FRAME_CHECKSUM_RADIX`, fixed at 10 by the spec (R7, R65, C3). -/
def frameChecksumRadix : Nat := 10

/-- An implementation's five codes before R7's constraint is looked at: nothing is known of them. -/
opaque rawParams : Params

/-- The codes of the machine after reset: any legal choice (R7). The `else` branch only makes the constraint provable
(DESIGN CHOICE, log 3): which branch is taken cannot be known. -/
def params : Params := if rawParams.Legal then rawParams else Params.sample

/-- How many instances stand beside instance 0. -/
opaque extraLinks : Nat

/-- `N_LINKS`, at least 1 (R7, R14, D2). -/
def nLinks : Nat := extraLinks + 1

/-- The 16-bit value CRC_VALUE gives on an unbound instance: a draw (R64, R99, U2), by instance and draw number (log 7). -/
opaque unboundCrcValue : Nat → Nat → Half

end Config

end Sys2Proof
end

