-- ==== Sys2Proof/Syntax.lean ====
section
/-! DEFINITION. The instructions: one constructor per row of spec/opcode_table.json, the seven host operations (R55) and the
26 wire-byte rows, whose class is "the opcode of a received byte" (R51). -/

namespace Sys2Proof

/-- One row of the opcode table with its operands. -/
inductive Instr where
  /-- CREATE (R98): the three marker bytes `s`, `u`, `e`. -/
  | create (s u e : Byte)
  /-- RX_BYTE (R76). -/
  | rxByte (b : Byte)
  /-- LAST_ERROR (R101). -/
  | lastError
  /-- CRC_RESET (R62). -/
  | crcReset
  /-- CRC_UPDATE (R63). -/
  | crcUpdate (b : Byte)
  /-- CRC_VALUE (R64). -/
  | crcValue
  /-- FRAME (R66): the buffer's capacity and the payload. -/
  | frame (cap : Half) (payload : List Byte)
  /-- START: the instance's `start_byte` (R77). -/
  | startMark
  /-- SEP: the instance's `field_separator` (R80, R83, R86, R90). -/
  | sepMark
  /-- END: the instance's `end_byte` (R81, R84, R87, R89). -/
  | endMark
  /-- HEX_0: the digit byte `0x30` (R68). -/
  | hex0
  /-- HEX_1: the digit byte `0x31` (R68). -/
  | hex1
  /-- HEX_2: the digit byte `0x32` (R68). -/
  | hex2
  /-- HEX_3: the digit byte `0x33` (R68). -/
  | hex3
  /-- HEX_4: the digit byte `0x34` (R68). -/
  | hex4
  /-- HEX_5: the digit byte `0x35` (R68). -/
  | hex5
  /-- HEX_6: the digit byte `0x36` (R68). -/
  | hex6
  /-- HEX_7: the digit byte `0x37` (R68). -/
  | hex7
  /-- HEX_8: the digit byte `0x38` (R68). -/
  | hex8
  /-- HEX_9: the digit byte `0x39` (R68). -/
  | hex9
  /-- HEX_A: the digit byte `0x41` (R68). -/
  | hexUpperA
  /-- HEX_B: the digit byte `0x42` (R68). -/
  | hexUpperB
  /-- HEX_C: the digit byte `0x43` (R68). -/
  | hexUpperC
  /-- HEX_D: the digit byte `0x44` (R68). -/
  | hexUpperD
  /-- HEX_E: the digit byte `0x45` (R68). -/
  | hexUpperE
  /-- HEX_F: the digit byte `0x46` (R68). -/
  | hexUpperF
  /-- HEX_a: the digit byte `0x61` (R68). -/
  | hexLowerA
  /-- HEX_b: the digit byte `0x62` (R68). -/
  | hexLowerB
  /-- HEX_c: the digit byte `0x63` (R68). -/
  | hexLowerC
  /-- HEX_d: the digit byte `0x64` (R68). -/
  | hexLowerD
  /-- HEX_e: the digit byte `0x65` (R68). -/
  | hexLowerE
  /-- HEX_f: the digit byte `0x66` (R68). -/
  | hexLowerF
  /-- OTHER: a byte of no other class (R51, R53). -/
  | other (b : Byte)
deriving DecidableEq, Repr

/-- The two formats of the opcode table: an operation of the host port (R55), or a byte class of the wire (R51). -/
inductive Format where
  | hostOp
  | wireByte
deriving DecidableEq, Repr

/-- The seven selectors of R55. -/
inductive Selector where
  | create
  | rxByte
  | lastError
  | crcReset
  | crcUpdate
  | crcValue
  | frame
deriving DecidableEq, Repr

/-- The classes of R51; a HEX byte carries its digit value (R69). -/
inductive ByteClass where
  | start
  | sep
  | fin
  | hex (d : Nibble)
  | other
deriving DecidableEq, Repr

end Sys2Proof
end

