-- ==== Sys2Proof/Decode.lean ====
section
/-! DEFINITION. Decoding and encoding: the host operation layout (30_encoding.md R55, R56), the wire byte classes (R51, R52),
the digit decoder (41_hex_decoder.md R68, R69) they rest on, and the opcode table's numbering of both. -/

namespace Sys2Proof

/-! ## Byte order and digits -/

/-- Two bytes, high byte first (R35). -/
def halfOfBytes (hi lo : Byte) : Half := hi ++ lo

/-- A 16-bit value as bytes, high byte first (R35, R55). -/
def halfBytes (v : Half) : List Byte := [v.extractLsb' 8 8, v.extractLsb' 0 8]

/-- A 32-bit value as bytes, high byte first (R35, R57). -/
def wordBytes (v : Word) : List Byte :=
  [v.extractLsb' 24 8, v.extractLsb' 16 8, v.extractLsb' 8 8, v.extractLsb' 0 8]

/-- `IsHex(b)` (R68); the codes are those of standard ASCII (PRESUMED through G1, log 10). -/
def isHex (b : Byte) : Bool :=
  (0x30#8 ≤ b && b ≤ 0x39#8) || (0x41#8 ≤ b && b ≤ 0x46#8) || (0x61#8 ≤ b && b ≤ 0x66#8)

/-- `HexVal(b)` (R69), which is defined only where `IsHex(b)` holds. -/
def hexVal? (b : Byte) : Option Nibble :=
  if 0x30#8 ≤ b && b ≤ 0x39#8 then some ((b - 0x30#8).setWidth 4)
  else if 0x41#8 ≤ b && b ≤ 0x46#8 then some ((b - 0x37#8).setWidth 4)
  else if 0x61#8 ≤ b && b ≤ 0x66#8 then some ((b - 0x57#8).setWidth 4)
  else none

/-- Legal markers (R97): pairwise distinct, none of them a hex digit. -/
def Markers.legal (m : Markers) : Bool :=
  m.start != m.sep && m.start != m.fin && m.sep != m.fin && !isHex m.start && !isHex m.sep && !isHex m.fin

/-- The class of a byte (R12, R51), tested in the order START, SEP, END, HEX, OTHER. -/
def classify (m : Markers) (b : Byte) : ByteClass :=
  if b = m.start then .start
  else if b = m.sep then .sep
  else if b = m.fin then .fin
  else match hexVal? b with
    | some d => .hex d
    | none => .other

/-! ## The wire byte rows -/

/-- The opcode table's row of a hex digit byte, by its match column. -/
def hexRow? (b : Byte) : Option Instr :=
  match b.toNat with
  | 0x30 => some .hex0
  | 0x31 => some .hex1
  | 0x32 => some .hex2
  | 0x33 => some .hex3
  | 0x34 => some .hex4
  | 0x35 => some .hex5
  | 0x36 => some .hex6
  | 0x37 => some .hex7
  | 0x38 => some .hex8
  | 0x39 => some .hex9
  | 0x41 => some .hexUpperA
  | 0x42 => some .hexUpperB
  | 0x43 => some .hexUpperC
  | 0x44 => some .hexUpperD
  | 0x45 => some .hexUpperE
  | 0x46 => some .hexUpperF
  | 0x61 => some .hexLowerA
  | 0x62 => some .hexLowerB
  | 0x63 => some .hexLowerC
  | 0x64 => some .hexLowerD
  | 0x65 => some .hexLowerE
  | 0x66 => some .hexLowerF
  | _ => none

/-- The wire byte as an instruction (R51, R52). Without markers (an instance not yet created has none, R19) no byte is START,
SEP or END. -/
def decodeWire (markers : Option Markers) (b : Byte) : Instr :=
  match markers with
  | none => (hexRow? b).getD (.other b)
  | some m =>
    if b = m.start then .startMark
    else if b = m.sep then .sepMark
    else if b = m.fin then .endMark
    else (hexRow? b).getD (.other b)

/-! ## The host operation layout -/

/-- Why the host operation decoder refuses (R56). -/
inductive DecodeError where
  /-- The selector is not one of R55's table. -/
  | reservedSelector
  /-- The operand list is cut short. -/
  | truncated
deriving DecidableEq, Repr

/-- R55's selector column. -/
def selectorOf (b : Byte) : Option Selector :=
  match b.toNat with
  | 0x01 => some .create
  | 0x02 => some .rxByte
  | 0x03 => some .lastError
  | 0x10 => some .crcReset
  | 0x11 => some .crcUpdate
  | 0x12 => some .crcValue
  | 0x13 => some .frame
  | _ => none

/-- R55's selector column, read the other way. -/
def Selector.code : Selector → Byte
  | .create => 0x01#8
  | .rxByte => 0x02#8
  | .lastError => 0x03#8
  | .crcReset => 0x10#8
  | .crcUpdate => 0x11#8
  | .crcValue => 0x12#8
  | .frame => 0x13#8

/-- The operands of an operation (R55), from the bytes after its selector; the rest of the bytes is handed back. -/
def decodeOperands (sel : Selector) (bytes : List Byte) : Except DecodeError (Instr × List Byte) :=
  match sel, bytes with
  | .create, s :: u :: e :: rest => .ok (.create s u e, rest)
  | .create, _ => .error .truncated
  | .rxByte, b :: rest => .ok (.rxByte b, rest)
  | .rxByte, [] => .error .truncated
  | .lastError, rest => .ok (.lastError, rest)
  | .crcReset, rest => .ok (.crcReset, rest)
  | .crcUpdate, b :: rest => .ok (.crcUpdate b, rest)
  | .crcUpdate, [] => .error .truncated
  | .crcValue, rest => .ok (.crcValue, rest)
  | .frame, capHi :: capLo :: nHi :: nLo :: rest =>
    let n := (halfOfBytes nHi nLo).toNat
    if rest.length < n then .error .truncated
    else .ok (.frame (halfOfBytes capHi capLo) (rest.take n), rest.drop n)
  | .frame, _ => .error .truncated

/-- One operation from the front of an operation port's bytes (R55, R56): total, refusing by name. -/
def decodeOp (bytes : List Byte) : Except DecodeError (Instr × List Byte) :=
  match bytes with
  | [] => .error .truncated
  | sel :: rest =>
    match selectorOf sel with
    | none => .error .reservedSelector
    | some op => decodeOperands op rest

/-! ## The encoder -/

/-- The format of an instruction's row. -/
def Instr.format : Instr → Format
  | .create _ _ _ | .rxByte _ | .lastError | .crcReset | .crcUpdate _ | .crcValue | .frame _ _ => .hostOp
  | .startMark | .sepMark | .endMark | .other _
  | .hex0 | .hex1 | .hex2 | .hex3 | .hex4 | .hex5 | .hex6 | .hex7 | .hex8 | .hex9
  | .hexUpperA | .hexUpperB | .hexUpperC | .hexUpperD | .hexUpperE | .hexUpperF
  | .hexLowerA | .hexLowerB | .hexLowerC | .hexLowerD | .hexLowerE | .hexLowerF => .wireByte

/-- The byte a wire row stands for, under the instance's markers (R51); none for a host operation. -/
def wireByte? (m : Markers) : Instr → Option Byte
  | .startMark => some m.start
  | .sepMark => some m.sep
  | .endMark => some m.fin
  | .hex0 => some 0x30#8
  | .hex1 => some 0x31#8
  | .hex2 => some 0x32#8
  | .hex3 => some 0x33#8
  | .hex4 => some 0x34#8
  | .hex5 => some 0x35#8
  | .hex6 => some 0x36#8
  | .hex7 => some 0x37#8
  | .hex8 => some 0x38#8
  | .hex9 => some 0x39#8
  | .hexUpperA => some 0x41#8
  | .hexUpperB => some 0x42#8
  | .hexUpperC => some 0x43#8
  | .hexUpperD => some 0x44#8
  | .hexUpperE => some 0x45#8
  | .hexUpperF => some 0x46#8
  | .hexLowerA => some 0x61#8
  | .hexLowerB => some 0x62#8
  | .hexLowerC => some 0x63#8
  | .hexLowerD => some 0x64#8
  | .hexLowerE => some 0x65#8
  | .hexLowerF => some 0x66#8
  | .other b => some b
  | .create _ _ _ | .rxByte _ | .lastError | .crcReset | .crcUpdate _ | .crcValue | .frame _ _ => none

/-- A host operation's bytes (R55); none for a wire row. -/
def hostBytes? : Instr → Option (List Byte)
  | .create s u e => some [Selector.create.code, s, u, e]
  | .rxByte b => some [Selector.rxByte.code, b]
  | .lastError => some [Selector.lastError.code]
  | .crcReset => some [Selector.crcReset.code]
  | .crcUpdate b => some [Selector.crcUpdate.code, b]
  | .crcValue => some [Selector.crcValue.code]
  | .frame cap payload =>
    some (Selector.frame.code :: halfBytes cap ++ halfBytes (BitVec.ofNat 16 payload.length) ++ payload)
  | .startMark | .sepMark | .endMark | .other _
  | .hex0 | .hex1 | .hex2 | .hex3 | .hex4 | .hex5 | .hex6 | .hex7 | .hex8 | .hex9
  | .hexUpperA | .hexUpperB | .hexUpperC | .hexUpperD | .hexUpperE | .hexUpperF
  | .hexLowerA | .hexLowerB | .hexLowerC | .hexLowerD | .hexLowerE | .hexLowerF => none

/-- An instruction's bytes: R55's layout for a host operation, one byte for a wire row. -/
def encode (m : Markers) (i : Instr) : List Byte := (hostBytes? i).getD (wireByte? m i).toList

/-! ## The opcode table's numbering -/

/-- The `k` lowest bytes of a number, the lowest first. -/
def bytesOfNat : Nat → Nat → List Byte
  | 0, _ => []
  | k + 1, w => BitVec.ofNat 8 w :: bytesOfNat k (w / 256)

/-- How many bytes the instruction that begins in a table word has (R55): a FRAME's payload is as long as its own `n` says. -/
def tableLength (w : Nat) : Nat :=
  match selectorOf (BitVec.ofNat 8 w) with
  | some .create => 4
  | some .rxByte | some .crcUpdate => 2
  | some .frame => 5 + ((w / 2 ^ 24) % 256 * 256 + (w / 2 ^ 32) % 256)
  | some .lastError | some .crcReset | some .crcValue | none => 1

/-- A table word's bytes, bit 0 the least significant bit of the first byte and every bit from `nbits` on zero. -/
def tableBytes (nbits w : Nat) : List Byte :=
  bytesOfNat (tableLength (w % 2 ^ nbits)) (w % 2 ^ nbits)

/-- The format a table word is read in: a word whose first byte is a selector of R55 is a host operation, any other a wire byte
(log 12: the two formats of the table share one number space). -/
def tableFormat (nbits w : Nat) : Format :=
  if (selectorOf (BitVec.ofNat 8 (w % 2 ^ nbits))).isSome then .hostOp else .wireByte

/-- The instruction the decoder reads at the front of a table word. A wire byte is read as by an instance that has no markers yet
(log 12); a wire instruction is one byte long, so higher bits of the word are no part of it. -/
def decodeTableWord (nbits w : Nat) : Option Instr :=
  match tableFormat nbits w with
  | .hostOp =>
    match decodeOp (tableBytes nbits w) with
    | .ok (i, _) => some i
    | .error _ => none
  | .wireByte => some (decodeWire none (BitVec.ofNat 8 (w % 2 ^ nbits)))

end Sys2Proof
end

