-- ==== Sys2Proof/Machine/State.lean ====
section
/-! DEFINITION. The state of the link core (10_state.md) as plain data, with the reasons a step can stop (60_exceptions.md R106)
and the state after power-on reset (R30, R117). -/

namespace Sys2Proof.Machine

open Sys2Proof

/-! ## The registers' types -/

/-- The parser's phase (R22), by name; its encoding is `Phase.code`. -/
inductive Phase where
  | idle
  | readCommand
  | readMotorValues
  | readPidAngle
  | validateChecksum
deriving DecidableEq, Repr

/-- The status codes (R26), by name; their numbers are `Status.code`. -/
inductive Status where
  | ok
  | inProgress
  | invalidSign
  | unknownCommand
  | checksumError
  | invalidPointer
  | invalidInstance
  | internalError
  | lengthError
deriving DecidableEq, Repr

/-- The tag of the command being decoded (R24), by name; its encoding is `CommandTag.code`. -/
inductive CommandTag where
  | motor
  | pid
deriving DecidableEq, Repr

/-- The decoded record, a tagged union (R25). -/
inductive Record where
  | motorValues (motor1 motor2 motor3 motor4 : Byte)
  | pidAngle (subCommand : Byte) (aRaw bRaw cRaw : Word)
deriving DecidableEq, Repr

/-! ## The outputs -/

/-- A RecordOut event (R95): a copy of the record, a PID record with its three reals. -/
inductive RecordOut where
  | motorValues (motor1 motor2 motor3 motor4 : Byte)
  | pidAngle (subCommand : Byte) (aRaw bRaw cRaw : Word) (a b c : Binary64)
deriving DecidableEq, Repr

/-- The response of a host operation (R55's response column). -/
inductive Response where
  /-- CREATE, LAST_ERROR, CRC_RESET, CRC_UPDATE: a status. -/
  | status (st : Status)
  /-- CRC_VALUE: a status and a 16-bit value. -/
  | value (st : Status) (v : Half)
  /-- FRAME: a status, the output's length and the output. -/
  | datagram (st : Status) (m : Half) (out : List Byte)
deriving DecidableEq, Repr

/-! ## One link instance -/

/-- One link instance: the registers of R17, then the model's own three fields. -/
structure Link where
  /-- R18. -/
  bound : Bool
  /-- R19. -/
  startByte : Byte
  /-- R19. -/
  fieldSeparator : Byte
  /-- R19. -/
  endByte : Byte
  /-- `L.rx.running_value`, the parser's receive context (R20); `none` is the spec's `⊥`. -/
  rx : Option Half
  /-- `L.tx.running_value`, the engine operations' transmit context (R20). -/
  tx : Option Half
  /-- R22. -/
  phase : Phase
  /-- R23. -/
  fieldIndex : BitVec 8
  /-- `hex_accumulator` (R21). -/
  acc : Word
  /-- R24. -/
  currentCommand : CommandTag
  /-- R25. -/
  record : Record
  /-- `last_error` (R27). -/
  status : Status
  /-- The model's own: how many free values CRC_VALUE has drawn here while unbound (log 7). -/
  draws : Nat
  /-- The model's own: the responses given so far on the operation port, oldest first (log 11). -/
  responses : List Response
  /-- The model's own: the RecordOut events emitted so far, oldest first (log 11). -/
  records : List RecordOut
deriving DecidableEq, Repr

/-- An instance after power-on reset (R30, R117): unbound, both contexts `⊥`, phase `Idle`. R30 leaves every other register
unspecified; the values named here are a DESIGN CHOICE that nothing reads (log 5). -/
def Link.reset : Link where
  bound := false
  startByte := 0
  fieldSeparator := 0
  endByte := 0
  rx := none
  tx := none
  phase := .idle
  fieldIndex := 0
  acc := 0
  currentCommand := .motor
  record := .motorValues 0 0 0 0
  status := .ok
  draws := 0
  responses := []
  records := []

/-! ## The machine -/

/-- What the outside has issued to an instance and the machine has not yet taken (R39, log 1). -/
inductive Input where
  /-- Bytes of whole operations for the instance's operation port (R55). -/
  | op (link : Nat) (bytes : List Byte)
  /-- Received bytes for the instance's parser, the bulk form of RX_BYTE (R102). -/
  | wire (link : Nat) (bytes : List Byte)
deriving DecidableEq, Repr

/-- The link core: its instances (R14), and beside them the model's own three fields. -/
structure State where
  /-- The OPEN codes of R7 (log 3); no step writes them. -/
  params : Params
  /-- The instances `0 .. N_LINKS-1` (R14). -/
  links : List Link
  /-- The instance the operation in execution is addressed to (R9, log 1). -/
  sel : Nat
  /-- Operations and bytes not yet taken, in the order they were issued (R39). -/
  input : List Input
deriving DecidableEq, Repr

/-- The machine after power-on reset (R117): `N_LINKS` instances in their reset state, nothing issued yet. -/
def State.reset : State where
  params := Config.params
  links := Link.reset :: List.replicate Config.extraLinks Link.reset
  sel := 0
  input := []

/-! ## Why a step stops -/

/-- The model's faults (R10, R106). -/
inductive Fault where
  /-- Raised where `⊥` is read and a value is needed (R9): CRC_VALUE on a transmit context never reset (R64), and the checksum
  comparison with `L.rx = ⊥`, which R28 (c) rules out. Safe: the source calls the value undefined. -/
  | undefinedRead
deriving DecidableEq, Repr

/-- The model's refusals (R10, R106). -/
inductive Refusal where
  /-- Raised by an arm of `exec` that has no meaning yet, by its mnemonic; safe. -/
  | notModelled (mnemonic : String)
  /-- Raised when the operation port holds a selector outside R55's table (R56); safe. -/
  | reservedSelector
  /-- Raised when an operation's operand bytes are cut short (R56); safe. -/
  | truncated
  /-- Raised by CREATE on a bound instance (R98); safe. -/
  | alreadyCreated
  /-- Raised by CREATE with markers that break R97; safe. -/
  | illegalMarkers
  /-- Raised when an operation is addressed to an instance that does not exist (R14, R32, log 4); safe. -/
  | noSuchLink
deriving DecidableEq, Repr

/-- The three ways an operation on one instance ends (R10). -/
abbrev LinkOutcome := Host.Outcome Link Fault Refusal

/-- The three ways a step ends (R10). -/
abbrev StateOutcome := Host.Outcome State Fault Refusal

end Sys2Proof.Machine
end

