-- ==== Sys2Proof/Machine/Operands.lean ====
section
/-! DEFINITION. Operand forms: from a committed field to a value (41_hex_decoder.md R72 to R75), the record's fields (R25), the
text of a checksum (R65), and the bytes of the outputs (R55, R57). -/

namespace Sys2Proof.Machine

open Sys2Proof

/-! ## From a committed 32-bit value to a field -/

/-- A motor field gets the low 8 bits (R72, D17). -/
def motorValue (v : Word) : Byte := v.extractLsb' 0 8

/-- The command a committed value selects, by a comparison of all 32 bits (R73, R80, D18). -/
def commandOf (p : Params) (v : Word) : Option CommandTag :=
  if v = p.cmdMotor then some .motor
  else if v = p.cmdPid then some .pid
  else none

/-- Whether a committed value is one of the three sub-command codes, by a comparison of all 32 bits (R73, R86, D18). -/
def isSubCommand (p : Params) (v : Word) : Bool :=
  v == p.subRollPitch.setWidth 32 || v == p.subYaw.setWidth 32 || v == p.subAngle.setWidth 32

/-- The stored sub-command is the 8-bit code that matched (R73, R86). -/
def subCommandValue (v : Word) : Byte := v.extractLsb' 0 8

/-- The checksum field matches the receive CRC in all 32 bits (R75, D18). -/
def checksumMatches (v : Word) (c : Half) : Bool := v == c.setWidth 32

/-- `PID_TO_REAL` (R74, D21), its default: the exact conversion of the unsigned value to binary64. The layout of binary64 (bias
1023, 52 fraction bits) is PRESUMED from IEEE-754 (log 8). -/
def pidToReal (v : Word) : Binary64 :=
  if v = 0 then 0
  else
    let e := v.toNat.log2
    BitVec.ofNat 64 ((1023 + e) * 2 ^ 52 + (v.toNat * 2 ^ (52 - e) - 2 ^ 52))

/-! ## The record -/

/-- `L.record.motor(k+1) <- x` (R83). A record of the other tag is left alone: R28 (d) says the case is never met (log 15). -/
def Record.setMotor (r : Record) (k : BitVec 8) (x : Byte) : Record :=
  match r, k.toNat with
  | .motorValues _ m2 m3 m4, 0 => .motorValues x m2 m3 m4
  | .motorValues m1 _ m3 m4, 1 => .motorValues m1 x m3 m4
  | .motorValues m1 m2 _ m4, 2 => .motorValues m1 m2 x m4
  | .motorValues m1 m2 m3 _, 3 => .motorValues m1 m2 m3 x
  | r, _ => r

/-- R86's four stores by field index: the selector, then the components `a`, `b`, `c`. A record of the other tag is left alone
(log 15). -/
def Record.setPid (r : Record) (k : BitVec 8) (v : Word) : Record :=
  match r, k.toNat with
  | .pidAngle _ a b c, 0 => .pidAngle (subCommandValue v) a b c
  | .pidAngle sub _ b c, 1 => .pidAngle sub v b c
  | .pidAngle sub a _ c, 2 => .pidAngle sub a v c
  | .pidAngle sub a b _, _ => .pidAngle sub a b v
  | r, _ => r

/-- The record's tag (R25). -/
def Record.tag : Record → CommandTag
  | .motorValues _ _ _ _ => .motor
  | .pidAngle _ _ _ _ => .pid

/-- The record of a newly selected command: its tag with every field 0 (R80, D23). -/
def Record.blankOf : CommandTag → Record
  | .motor => .motorValues 0 0 0 0
  | .pid => .pidAngle 0 0 0 0

/-- The payload phase a command enters (R80). -/
def Phase.payloadOf : CommandTag → Phase
  | .motor => .readMotorValues
  | .pid => .readPidAngle

/-- What the RecordOut event of a record carries (R95). -/
def Record.out : Record → RecordOut
  | .motorValues m1 m2 m3 m4 => .motorValues m1 m2 m3 m4
  | .pidAngle sub a b c => .pidAngle sub a b c (pidToReal a) (pidToReal b) (pidToReal c)

/-- A RecordOut event as bytes (R57): 5 or 14 of them. -/
def RecordOut.toBytes : RecordOut → List Byte
  | .motorValues m1 m2 m3 m4 => [0x00#8, m1, m2, m3, m4]
  | .pidAngle sub a b c _ _ _ => 0x01#8 :: sub :: (wordBytes a ++ wordBytes b ++ wordBytes c)

/-! ## The checksum's text -/

/-- The ASCII digit of a value below the radix, upper-case letters from 10 on (R65; PRESUMED through G2, log 10). -/
def digitChar (d : Nat) : Byte := if d < 10 then BitVec.ofNat 8 (0x30 + d) else BitVec.ofNat 8 (0x37 + d)

/-- Digits of `v` in radix `r` in front of `acc`, at most `fuel` of them. -/
def renderAux : Nat → Nat → Nat → List Byte → List Byte
  | 0, _, _, acc => acc
  | fuel + 1, r, v, acc =>
    if v < r then digitChar v :: acc else renderAux fuel r (v / r) (digitChar (v % r) :: acc)

/-- `Render(v, r)` (R65): most significant digit first, no leading zeros, `"0"` for 0. A 16-bit value has at most 16 digits. -/
def render (v : Half) (r : Nat) : List Byte := renderAux 16 r v.toNat []

end Sys2Proof.Machine
end

