-- ==== Sys2Proof/Machine/Flags.lean ====
section
/-! DEFINITION. Status computations (10_state.md R26, R27; 60_exceptions.md R105), the core having no flags but one status register,
and the encodings of the enumerated registers (R22, R24, R26). -/

namespace Sys2Proof.Machine

open Sys2Proof

/-- A status code's number (R26, D5). -/
def Status.code : Status → Nibble
  | .ok => 0
  | .inProgress => 1
  | .invalidSign => 2
  | .unknownCommand => 3
  | .checksumError => 4
  | .invalidPointer => 5
  | .invalidInstance => 6
  | .internalError => 7
  | .lengthError => 8

/-- A phase's encoding in 3 bits (R22, D6). -/
def Phase.code : Phase → BitVec 3
  | .idle => 0
  | .readCommand => 1
  | .readMotorValues => 2
  | .readPidAngle => 3
  | .validateChecksum => 4

/-- The encoding of `current_command` (R24, D6). -/
def CommandTag.code : CommandTag → BitVec 1
  | .motor => 0
  | .pid => 1

/-- Which codes R26 lets `L.status` hold (R27): 0, 1, 2, 3, 4 and 7. -/
def Status.heldByParser : Status → Bool
  | .ok | .inProgress | .invalidSign | .unknownCommand | .checksumError | .internalError => true
  | .invalidPointer | .invalidInstance | .lengthError => false

/-- A status byte: the code in bits 3..0, bits 7..4 zero (R55). -/
def Status.byte (st : Status) : Byte := st.code.setWidth 8

/-- The status a frame ends with at `end_byte` (R89). -/
def frameVerdict (matched : Bool) : Status := if matched then .ok else .checksumError

/-- A response as bytes (R55): every 16-bit value high byte first. -/
def Response.toBytes : Response → List Byte
  | .status st => [st.byte]
  | .value st v => st.byte :: halfBytes v
  | .datagram st m out => st.byte :: (halfBytes m ++ out)

/-- The status of a response. -/
def Response.st : Response → Status
  | .status st => st
  | .value st _ => st
  | .datagram st _ _ => st

end Sys2Proof.Machine
end

