-- ==== Sys2Proof/Machine/Ops.lean ====
section
/-! DEFINITION. The operations every meaning is made of: the instance an operation is addressed to (R9, R14), the checksum fold
(R59), the hex accumulator (R70, R71), the error step (R91, the one thing here that resembles taking an exception: R104 says the
core has no trap and no return from one), the re-arm (R77) and the outputs (R55, R95). -/

namespace Sys2Proof.Machine

open Sys2Proof

/-! ## The addressed instance -/

/-- The instance's frame markers. -/
def Link.markers (l : Link) : Markers := ⟨l.startByte, l.fieldSeparator, l.endByte⟩

/-- The markers of an instance that has been created; before CREATE there are none to read (R19). -/
def Link.markers? (l : Link) : Option Markers := if l.bound then some l.markers else none

/-- `L.r <- v` for the addressed instance (R9): the instance's registers become `l`. -/
def State.putLink (s : State) (l : Link) : State := { s with links := s.links.set s.sel l }

/-- An operation's outcome on the addressed instance as an outcome of the machine. -/
def State.putOutcome (s : State) : LinkOutcome → StateOutcome
  | .next l => .next (s.putLink l)
  | .fault r => .fault r
  | .refused r => .refused r

/-- An operation on the addressed instance: it reads and writes that instance only (R14, R40). -/
def onLink (s : State) (f : Link → LinkOutcome) : StateOutcome :=
  match s.links[s.sel]? with
  | none => .refused .noSuchLink
  | some l => s.putOutcome (f l)

/-- The split every operation but CREATE begins with (R99, R107): what it does unbound, and what it does bound. -/
def Link.ifBound (l : Link) (unbound bound : LinkOutcome) : LinkOutcome := if l.bound then bound else unbound

/-! ## Outputs -/

/-- A response on the operation port (R55). -/
def Link.respond (l : Link) (r : Response) : Link := { l with responses := l.responses ++ [r] }

/-- `Emit RecordOut(r)` (R95). -/
def Link.emit (l : Link) (r : RecordOut) : Link := { l with records := l.records ++ [r] }

/-! ## The checksum (R59, R60) -/

/-- One of the 8 rounds of R59. -/
def crcRound (c : Half) : Half := if c.getLsbD 15 then (c <<< 1) ^^^ Config.crcPoly else c <<< 1

/-- `n` rounds. -/
def crcRounds : Nat → Half → Half
  | 0, c => c
  | n + 1, c => crcRounds n (crcRound c)

/-- A byte folded into a running value (R59): into the high half, then 8 rounds. -/
def foldByte (v : Half) (b : Byte) : Half := crcRounds 8 (v ^^^ (b.setWidth 16 <<< 8))

/-- `Fold(ctx, b)` (R59): `⊥` stays `⊥` (D13). -/
def fold (ctx : Option Half) (b : Byte) : Option Half := ctx.map fun v => foldByte v b

/-- `CRC(s)` (R60). -/
def crc (s : List Byte) : Half := s.foldl foldByte Config.crcInit

/-- `Fold(L.rx, b)`. -/
def Link.foldRx (l : Link) (b : Byte) : Link := { l with rx := fold l.rx b }

/-! ## The hex accumulator (R70, R71) -/

/-- `Accumulate` with a digit's value: `old * 16 + digit` in 32 bits (R70, D16). -/
def Link.accumulate (l : Link) (d : Nibble) : Link := { l with acc := l.acc * 16#32 + d.setWidth 32 }

/-- The register write of `Commit()`, whose value is `l.acc` (R71). -/
def Link.clearAcc (l : Link) : Link := { l with acc := 0 }

/-! ## Ending and starting a frame -/

/-- `Error(code)` (R91): the status, and the phase to `Idle`; no other register. -/
def Link.error (l : Link) (code : Status) : Link := { l with status := code, phase := .idle }

/-- `ReArm()` (R77). -/
def Link.reArm (l : Link) : Link :=
  { l with rx := some Config.crcInit, acc := 0, fieldIndex := 0, status := .inProgress, phase := .readCommand }

end Sys2Proof.Machine
end

