-- ==== Sys2Proof/Machine/Control.lean ====
section
/-! DEFINITION. The link control operations (43_link_control.md): CREATE and LAST_ERROR. -/

namespace Sys2Proof.Machine

open Sys2Proof

/-- What CREATE writes (R30, R98, D11); `current_command` and `record` stay as they are. -/
def Link.created (l : Link) (m : Markers) : Link :=
  { l with
    bound := true, startByte := m.start, fieldSeparator := m.sep, endByte := m.fin,
    rx := none, tx := none, phase := .idle, acc := 0, fieldIndex := 0, status := .ok }

/-- CREATE on an instance (R98), its refusals first (R107). -/
def Link.create (l : Link) (m : Markers) : LinkOutcome :=
  if l.bound then .refused .alreadyCreated
  else if m.legal then .next ((l.created m).respond (.status .ok))
  else .refused .illegalMarkers

/-- CREATE (R98). -/
def execCreate (m u e : Byte) (s : State) : StateOutcome := onLink s fun l => l.create ⟨m, u, e⟩

/-- LAST_ERROR on an instance (R101). -/
def Link.lastError (l : Link) : LinkOutcome :=
  l.ifBound (.next (l.respond (.status .invalidInstance))) (.next (l.respond (.status l.status)))

/-- LAST_ERROR (R101). -/
def execLastError (s : State) : StateOutcome := onLink s fun l => l.lastError

end Sys2Proof.Machine
end

