-- ==== Sys2Proof/Machine/Engine.lean ====
section
/-! DEFINITION. The Checksum Engine's host operations on the transmit context (40_checksum_engine.md): CRC_RESET, CRC_UPDATE,
CRC_VALUE, FRAME. They never touch `L.rx`, a parser register or `L.status` (R61). -/

namespace Sys2Proof.Machine

open Sys2Proof

/-- CRC_RESET on an instance (R62). -/
def Link.crcReset (l : Link) : LinkOutcome :=
  l.ifBound (.next (l.respond (.status .invalidInstance)))
    (.next ({ l with tx := some Config.crcInit }.respond (.status .ok)))

/-- CRC_RESET (R62). -/
def execCrcReset (s : State) : StateOutcome := onLink s fun l => l.crcReset

/-- CRC_UPDATE on an instance (R63). -/
def Link.crcUpdate (l : Link) (b : Byte) : LinkOutcome :=
  l.ifBound (.next (l.respond (.status .invalidInstance)))
    (.next ({ l with tx := fold l.tx b }.respond (.status .ok)))

/-- CRC_UPDATE (R63). -/
def execCrcUpdate (b : Byte) (s : State) : StateOutcome := onLink s fun l => l.crcUpdate b

/-- CRC_VALUE on an unbound instance: the status, and a value that is a draw (R64, R99, log 7). -/
def Link.drawValue (l : Link) (k : Nat) : Link :=
  { l with draws := l.draws + 1 }.respond (.value .invalidInstance (Config.unboundCrcValue k l.draws))

/-- CRC_VALUE on instance number `k` (R64): a context never reset is a fault. -/
def Link.crcValue (l : Link) (k : Nat) : LinkOutcome :=
  l.ifBound (.next (l.drawValue k))
    (match l.tx with
      | none => .fault .undefinedRead
      | some v => .next (l.respond (.value .ok v)))

/-- CRC_VALUE (R64). -/
def execCrcValue (s : State) : StateOutcome := onLink s fun l => l.crcValue s.sel

/-- The datagram FRAME builds (R54, R66). -/
def datagramOf (m : Markers) (payload : List Byte) (radix : Nat) : List Byte :=
  [m.start] ++ payload ++ [m.sep] ++ render (crc payload) radix ++ [m.fin]

/-- FRAME's response for a capacity (R66): the length check, after everything is computed (R107). -/
def frameResponse (cap : Half) (out : List Byte) : Response :=
  if cap.toNat < out.length then .datagram .lengthError 0 []
  else .datagram .ok (BitVec.ofNat 16 out.length) out

/-- FRAME on an instance (R66). The transmit context takes the payload's CRC before the length check (D24). -/
def Link.sendFrame (l : Link) (cap : Half) (payload : List Byte) : LinkOutcome :=
  l.ifBound (.next (l.respond (.datagram .invalidInstance 0 [])))
    (.next ({ l with tx := some (crc payload) }.respond
      (frameResponse cap (datagramOf l.markers payload Config.frameChecksumRadix))))

/-- FRAME (R66). -/
def execFrame (cap : Half) (payload : List Byte) (s : State) : StateOutcome :=
  onLink s fun l => l.sendFrame cap payload

end Sys2Proof.Machine
end

