-- ==== Sys2Proof/Machine/Parser.lean ====
section
/-! DEFINITION. The Frame Parser (42_frame_parser.md): what a byte of each class does in each phase (R76 to R91, the table of
R96), RX_BYTE, and the 26 wire-byte rows of the opcode table. -/

namespace Sys2Proof.Machine

open Sys2Proof

/-! ## One function per byte class -/

/-- HEX: folded and accumulated in the command and payload phases (R79, R82, R85), accumulated only in `ValidateChecksum` (R88),
dropped in `Idle` (R78). -/
def Link.onHex (l : Link) (b : Byte) (d : Nibble) : Link :=
  match l.phase with
  | .idle => l
  | .readCommand | .readMotorValues | .readPidAngle => (l.foldRx b).accumulate d
  | .validateChecksum => l.accumulate d

/-- The rest of R80 once the separator is folded and the value `v` committed. -/
def Link.selectCommand (l : Link) (p : Params) (v : Word) : Link :=
  match commandOf p v with
  | some tag =>
    { l with currentCommand := tag, record := Record.blankOf tag, fieldIndex := 0, phase := Phase.payloadOf tag }
  | none => l.error .unknownCommand

/-- The end of a payload commit (R83, R86): the field index grows by one, and at 4 the checksum field begins. -/
def Link.nextField (l : Link) : Link :=
  let k := l.fieldIndex + 1
  { l with fieldIndex := k, phase := if k.toNat = Config.payloadFields then .validateChecksum else l.phase }

/-- The rest of R83 once the separator is folded and the value `v` committed. -/
def Link.commitMotor (l : Link) (v : Word) : Link :=
  if Config.payloadFields ≤ l.fieldIndex.toNat then l.error .internalError
  else { l with record := l.record.setMotor l.fieldIndex (motorValue v) }.nextField

/-- The rest of R86 once the separator is folded and the value `v` committed. The guard comes before the selector check, and the
selector check before any store (R107). -/
def Link.commitPid (l : Link) (p : Params) (v : Word) : Link :=
  if Config.payloadFields ≤ l.fieldIndex.toNat then l.error .internalError
  else if l.fieldIndex = 0 ∧ isSubCommand p v = false then l.error .unknownCommand
  else { l with record := l.record.setPid l.fieldIndex v }.nextField

/-- SEP, with the separator byte itself: R80, R83, R86; invalid in `ValidateChecksum` (R90); dropped in `Idle` (R78). -/
def Link.onSep (l : Link) (p : Params) (b : Byte) : Link :=
  match l.phase with
  | .idle => l
  | .readCommand => (l.foldRx b).clearAcc.selectCommand p l.acc
  | .readMotorValues => (l.foldRx b).clearAcc.commitMotor l.acc
  | .readPidAngle => (l.foldRx b).clearAcc.commitPid p l.acc
  | .validateChecksum => l.error .invalidSign

/-- The end of a frame (R89), against the receive CRC `c`. -/
def Link.endFrame (l : Link) (c : Half) : Link :=
  let matched := checksumMatches l.acc c
  let done := { l.clearAcc with status := frameVerdict matched, fieldIndex := 0, phase := .idle }
  if matched then done.emit l.record.out else done

/-- END: R89 in `ValidateChecksum`, where a receive context of `⊥` is a read of `⊥` (R9, log 14); invalid in the other reading
phases (R81, R84, R87); dropped in `Idle` (R78). -/
def Link.onEnd (l : Link) : LinkOutcome :=
  match l.phase with
  | .idle => .next l
  | .readCommand | .readMotorValues | .readPidAngle => .next (l.error .invalidSign)
  | .validateChecksum =>
    match l.rx with
    | some c => .next (l.endFrame c)
    | none => .fault .undefinedRead

/-- OTHER: invalid in a reading phase (R81, R84, R87, R90), dropped in `Idle` (R78). -/
def Link.onOther (l : Link) : Link :=
  match l.phase with
  | .idle => l
  | .readCommand | .readMotorValues | .readPidAngle | .validateChecksum => l.error .invalidSign

/-! ## A byte on a bound or unbound instance -/

/-- What byte `b` of class `c` does (R76, R96); START before the phase is looked at (R52, R77). -/
def Link.receive (l : Link) (p : Params) (c : ByteClass) (b : Byte) : LinkOutcome :=
  match c with
  | .start => .next l.reArm
  | .sep => .next (l.onSep p b)
  | .fin => l.onEnd
  | .hex d => .next (l.onHex b d)
  | .other => .next l.onOther

/-- A byte of a known class on an instance; an unbound instance drops it (R99). -/
def Link.wire (l : Link) (p : Params) (c : ByteClass) (b : Byte) : LinkOutcome :=
  l.ifBound (.next l) (l.receive p c b)

/-- `RX_BYTE(b)` on an instance (R76): the byte is sorted into its class first (R51). -/
def Link.rxByte (l : Link) (p : Params) (b : Byte) : LinkOutcome := l.wire p (classify l.markers b) b

/-- RX_BYTE (R76). -/
def execRxByte (b : Byte) (s : State) : StateOutcome := onLink s fun l => l.rxByte s.params b

/-- A digit byte's row: byte `b` with digit value `d`. -/
def receiveHex (b : Byte) (d : Nibble) (s : State) : StateOutcome :=
  onLink s fun l => l.wire s.params (.hex d) b

/-- START (R77). -/
def execStart (s : State) : StateOutcome :=
  onLink s fun l => l.wire s.params .start l.startByte

/-- SEP (R80, R83, R86, R90). -/
def execSep (s : State) : StateOutcome :=
  onLink s fun l => l.wire s.params .sep l.fieldSeparator

/-- END (R81, R84, R87, R89). -/
def execEnd (s : State) : StateOutcome :=
  onLink s fun l => l.wire s.params .fin l.endByte

/-- OTHER (R53). -/
def execOther (b : Byte) (s : State) : StateOutcome :=
  onLink s fun l => l.wire s.params .other b

/-- HEX_0 (R68, R69). -/
def execHex0 (s : State) : StateOutcome := receiveHex 0x30#8 0#4 s

/-- HEX_1 (R68, R69). -/
def execHex1 (s : State) : StateOutcome := receiveHex 0x31#8 1#4 s

/-- HEX_2 (R68, R69). -/
def execHex2 (s : State) : StateOutcome := receiveHex 0x32#8 2#4 s

/-- HEX_3 (R68, R69). -/
def execHex3 (s : State) : StateOutcome := receiveHex 0x33#8 3#4 s

/-- HEX_4 (R68, R69). -/
def execHex4 (s : State) : StateOutcome := receiveHex 0x34#8 4#4 s

/-- HEX_5 (R68, R69). -/
def execHex5 (s : State) : StateOutcome := receiveHex 0x35#8 5#4 s

/-- HEX_6 (R68, R69). -/
def execHex6 (s : State) : StateOutcome := receiveHex 0x36#8 6#4 s

/-- HEX_7 (R68, R69). -/
def execHex7 (s : State) : StateOutcome := receiveHex 0x37#8 7#4 s

/-- HEX_8 (R68, R69). -/
def execHex8 (s : State) : StateOutcome := receiveHex 0x38#8 8#4 s

/-- HEX_9 (R68, R69). -/
def execHex9 (s : State) : StateOutcome := receiveHex 0x39#8 9#4 s

/-- HEX_A (R68, R69). -/
def execHexUpperA (s : State) : StateOutcome := receiveHex 0x41#8 10#4 s

/-- HEX_B (R68, R69). -/
def execHexUpperB (s : State) : StateOutcome := receiveHex 0x42#8 11#4 s

/-- HEX_C (R68, R69). -/
def execHexUpperC (s : State) : StateOutcome := receiveHex 0x43#8 12#4 s

/-- HEX_D (R68, R69). -/
def execHexUpperD (s : State) : StateOutcome := receiveHex 0x44#8 13#4 s

/-- HEX_E (R68, R69). -/
def execHexUpperE (s : State) : StateOutcome := receiveHex 0x45#8 14#4 s

/-- HEX_F (R68, R69). -/
def execHexUpperF (s : State) : StateOutcome := receiveHex 0x46#8 15#4 s

/-- HEX_a (R68, R69). -/
def execHexLowerA (s : State) : StateOutcome := receiveHex 0x61#8 10#4 s

/-- HEX_b (R68, R69). -/
def execHexLowerB (s : State) : StateOutcome := receiveHex 0x62#8 11#4 s

/-- HEX_c (R68, R69). -/
def execHexLowerC (s : State) : StateOutcome := receiveHex 0x63#8 12#4 s

/-- HEX_d (R68, R69). -/
def execHexLowerD (s : State) : StateOutcome := receiveHex 0x64#8 13#4 s

/-- HEX_e (R68, R69). -/
def execHexLowerE (s : State) : StateOutcome := receiveHex 0x65#8 14#4 s

/-- HEX_f (R68, R69). -/
def execHexLowerF (s : State) : StateOutcome := receiveHex 0x66#8 15#4 s

end Sys2Proof.Machine
end

