-- ==== Sys2Proof/Machine/Dispatch.lean ====
section
/-! DEFINITION. One arm per row of spec/opcode_table.json: each calls the row's meaning. -/

namespace Sys2Proof.Machine

open Sys2Proof

/-- The meaning of an instruction on the addressed instance. -/
def exec (i : Instr) (s : State) : Host.Outcome State Fault Refusal :=
  match i with
  | .create s0 u e => Sys2Proof.Machine.execCreate s0 u e s
  | .rxByte b => Sys2Proof.Machine.execRxByte b s
  | .lastError => Sys2Proof.Machine.execLastError s
  | .crcReset => Sys2Proof.Machine.execCrcReset s
  | .crcUpdate b => Sys2Proof.Machine.execCrcUpdate b s
  | .crcValue => Sys2Proof.Machine.execCrcValue s
  | .frame cap payload => Sys2Proof.Machine.execFrame cap payload s
  | .startMark => Sys2Proof.Machine.execStart s
  | .sepMark => Sys2Proof.Machine.execSep s
  | .endMark => Sys2Proof.Machine.execEnd s
  | .hex0 => Sys2Proof.Machine.execHex0 s
  | .hex1 => Sys2Proof.Machine.execHex1 s
  | .hex2 => Sys2Proof.Machine.execHex2 s
  | .hex3 => Sys2Proof.Machine.execHex3 s
  | .hex4 => Sys2Proof.Machine.execHex4 s
  | .hex5 => Sys2Proof.Machine.execHex5 s
  | .hex6 => Sys2Proof.Machine.execHex6 s
  | .hex7 => Sys2Proof.Machine.execHex7 s
  | .hex8 => Sys2Proof.Machine.execHex8 s
  | .hex9 => Sys2Proof.Machine.execHex9 s
  | .hexUpperA => Sys2Proof.Machine.execHexUpperA s
  | .hexUpperB => Sys2Proof.Machine.execHexUpperB s
  | .hexUpperC => Sys2Proof.Machine.execHexUpperC s
  | .hexUpperD => Sys2Proof.Machine.execHexUpperD s
  | .hexUpperE => Sys2Proof.Machine.execHexUpperE s
  | .hexUpperF => Sys2Proof.Machine.execHexUpperF s
  | .hexLowerA => Sys2Proof.Machine.execHexLowerA s
  | .hexLowerB => Sys2Proof.Machine.execHexLowerB s
  | .hexLowerC => Sys2Proof.Machine.execHexLowerC s
  | .hexLowerD => Sys2Proof.Machine.execHexLowerD s
  | .hexLowerE => Sys2Proof.Machine.execHexLowerE s
  | .hexLowerF => Sys2Proof.Machine.execHexLowerF s
  | .other b => Sys2Proof.Machine.execOther b s

end Sys2Proof.Machine
end

