-- ==== Sys2Proof/Machine/Fetch.lean ====
section
/-! DEFINITION. Where an instruction comes from. The core fetches nothing (R16): an instance's next instruction is the first
operation, or the first received byte, that the outside has issued to it and the machine has not yet taken (R39, R55, R102). -/

namespace Sys2Proof.Machine

open Sys2Proof

/-- The instance an input is issued to (R9, R14). -/
def Input.link : Input → Nat
  | .op k _ => k
  | .wire k _ => k

/-- An input that holds no byte any more. -/
def Input.spent : Input → Bool
  | .op _ bytes => bytes.isEmpty
  | .wire _ bytes => bytes.isEmpty

/-- The inputs that still hold a byte, in the order they were issued. -/
def waiting (q : List Input) : List Input := q.filter fun x => !x.spent

/-- The refusal a decode error ends in (R56, R106). -/
def refusalOf : DecodeError → Refusal
  | .reservedSelector => .reservedSelector
  | .truncated => .truncated

/-- The state an operation of instance `k` runs in, with `q` still waiting (R9, R39). -/
def State.address (s : State) (k : Nat) (q : List Input) : State := { s with sel := k, input := q }

/-- What stands at the front of an input. -/
inductive Fetched where
  /-- The input holds no byte any more. -/
  | nothing
  /-- The operation has no meaning (R10, R56). -/
  | refused (r : Refusal)
  /-- An instruction, and the rest of its input. -/
  | instr (i : Instr) (more : Input)
deriving DecidableEq, Repr

/-- The first operation of an input: one operation from the front of an operation port's bytes (R55, R56), or one received byte,
read in its own class under its instance's markers (R51, R102). -/
def fetch (s : State) (x : Input) : Fetched :=
  match x with
  | .op _ [] | .wire _ [] => .nothing
  | .op k (b :: bytes) =>
    match s.links[k]?, decodeOp (b :: bytes) with
    | none, _ => .refused .noSuchLink
    | some _, .error e => .refused (refusalOf e)
    | some _, .ok (i, more) => .instr i (.op k more)
  | .wire k (b :: more) =>
    match s.links[k]? with
    | none => .refused .noSuchLink
    | some l => .instr (decodeWire l.markers? b) (.wire k more)

/-- The input that issues a table word's instruction to instance 0 (log 12). -/
def tableInput (nbits w : Nat) : Input :=
  match tableFormat nbits w with
  | .hostOp => .op 0 (tableBytes nbits w)
  | .wireByte => .wire 0 (tableBytes nbits w)

end Sys2Proof.Machine
end

