-- ==== Sys2Proof/Machine/Schedule.lean ====
section
/-! DEFINITION. Which issued operation runs next. Within an instance operations run in the order they were issued (R39); between
instances they commute (R40), so an operation that ends in a fault or a refusal ends its own instance only (R106): it stays where
it is, nothing behind it on its instance runs, and the other instances go on (log 13). -/

namespace Sys2Proof.Machine

open Sys2Proof

/-- Why an instance has stopped: a fault or a refusal (R10, R106). -/
inductive Stop where
  | fault (r : Fault)
  | refused (r : Refusal)
deriving DecidableEq, Repr

/-- A stop as the outcome of a step. -/
def Stop.outcome : Stop → StateOutcome
  | .fault r => .fault r
  | .refused r => .refused r

/-- The outcome of an input's first operation, run with `before` and `after` waiting around the rest of the input. -/
def attempt (s : State) (x : Input) (before after : List Input) : StateOutcome :=
  match fetch s x with
  | .nothing => .next s
  | .refused r => .refused r
  | .instr i more => exec i (s.address x.link (waiting (before ++ more :: after)))

/-- Whether an instance is among those that have stopped. -/
def isStopped (stops : List (Nat × Stop)) (k : Nat) : Bool := stops.any fun st => st.1 == k

/-- The stop of the lowest-numbered instance: a choice that does not depend on the order of issue (R40, log 13). -/
def lowest : List (Nat × Stop) → Option (Nat × Stop)
  | [] => none
  | st :: rest =>
    match lowest rest with
    | none => some st
    | some other => if st.1 < other.1 then some st else some other

/-- What a machine with nothing left to run answers: a stop if an instance has stopped, else the state it holds (R116). -/
def State.settle (s : State) (stops : List (Nat × Stop)) : StateOutcome :=
  match lowest stops with
  | none => .next s
  | some st => st.2.outcome

/-- The first input in issue order whose operation completes: the inputs of `before` were passed over, on the instances of
`stops`. -/
def schedule (s : State) (before : List Input) (stops : List (Nat × Stop)) : List Input → StateOutcome
  | [] => s.settle stops
  | x :: after =>
    if isStopped stops x.link then schedule s (before ++ [x]) stops after
    else
      match attempt s x before after with
      | .next t => .next t
      | .fault r => schedule s (before ++ [x]) ((x.link, .fault r) :: stops) after
      | .refused r => schedule s (before ++ [x]) ((x.link, .refused r) :: stops) after

end Sys2Proof.Machine
end

