-- ==== Sys2Proof/Machine/Step.lean ====
section
/-! DEFINITION. One step: one issued operation or received byte, as one atomic step of one instance (R4). -/

namespace Sys2Proof.Machine

open Sys2Proof

/-- One step: the first operation in issue order that completes, each instance's operations in their own order (R39, R40). With
nothing issued the machine holds all its state (R116, log 1); with nothing left to run but stopped instances it answers a stop
(R106, log 13). -/
def step (s : State) : Host.Outcome State Fault Refusal := schedule s [] [] (waiting s.input)

/-- `s` with a table word's instruction issued to instance 0, before everything else that is waiting (log 2). -/
def State.withFetchWord (s : State) (nbits w : Nat) : State :=
  { s with input := tableInput nbits w :: s.input }

end Sys2Proof.Machine
end

