-- ==== Sys2Proof/WellFormed.lean ====
section
/-! DEFINITION. Which instructions are well-formed, beside what their types already say. -/

namespace Sys2Proof

/-- A FRAME's payload length is a 16-bit number (R66: `0 ≤ n ≤ 65535`). -/
def payloadFits (payload : List Byte) : Bool := payload.length < 65536

/-- A byte of class OTHER is no hex digit and none of the instance's markers (R51). -/
def isOtherByte (m : Markers) (b : Byte) : Bool :=
  !isHex b && b != m.start && b != m.sep && b != m.fin

/-- An instruction is well-formed for an instance with markers `m` when its operands are ones its row's encoding admits. -/
def Instr.wf (m : Markers) : Instr → Bool
  | .frame _ payload => payloadFits payload
  | .other b => isOtherByte m b
  | _ => true

end Sys2Proof
end

