-- ==== Sys2Proof/Safety.lean ====
section
/-! DEFINITION. What a good state is (10_state.md R28) and the words the claims use: what an operation leaves alone, when two
states agree on everything the spec specifies, and the number a digit string stands for. -/

namespace Sys2Proof.Machine

open Sys2Proof

/-! ## The invariant of R28 -/

/-- R28 (a). -/
abbrev Link.PhaseMatchesStatus (l : Link) : Prop := l.phase ≠ .idle ↔ l.status = .inProgress

/-- R28 (b). -/
abbrev Link.FieldIndexInRange (l : Link) : Prop :=
  l.phase = .readMotorValues ∨ l.phase = .readPidAngle → l.fieldIndex.toNat < 4

/-- R28 (c). -/
abbrev Link.ReadingHasCrc (l : Link) : Prop := l.phase ≠ .idle → l.rx ≠ none

/-- R28 (d). -/
abbrev Link.RecordMatchesPhase (l : Link) : Prop :=
  (l.phase = .readMotorValues → l.currentCommand = .motor ∧ l.record.tag = .motor) ∧
  (l.phase = .readPidAngle → l.currentCommand = .pid ∧ l.record.tag = .pid)

/-- R25 and R83 in the last phase: the record's tag is the command's, and the field index keeps the value 4. -/
abbrev Link.ChecksumPhase (l : Link) : Prop :=
  l.phase = .validateChecksum → l.record.tag = l.currentCommand ∧ l.fieldIndex = 4#8

/-- R97: a created instance's markers are legal. -/
abbrev Link.MarkersLegal (l : Link) : Prop := l.markers.legal = true

/-- R27 and the unreachability of R83's and R86's guard (R105): `L.status` holds code 0, 1, 2, 3 or 4. -/
abbrev Link.StatusReachable (l : Link) : Prop := l.status.heldByParser = true ∧ l.status ≠ .internalError

/-- R30: what an instance that has not been created is known to hold. -/
abbrev Link.UnboundAsReset (l : Link) : Prop := l.phase = .idle ∧ l.rx = none ∧ l.tx = none

/-- The invariant of one instance. -/
abbrev Link.Inv (l : Link) : Prop :=
  (l.bound = true → l.PhaseMatchesStatus ∧ l.FieldIndexInRange ∧ l.ReadingHasCrc ∧ l.RecordMatchesPhase ∧
    l.ChecksumPhase ∧ l.MarkersLegal ∧ l.StatusReachable) ∧
  (l.bound = false → l.UnboundAsReset)

/-- The invariant of the machine. -/
abbrev State.Inv (s : State) : Prop := ∀ l ∈ s.links, l.Inv

/-! ## Frames -/

/-- The configuration registers are unchanged (R18, R19). -/
abbrev Link.SameConfig (l l' : Link) : Prop :=
  l'.bound = l.bound ∧ l'.startByte = l.startByte ∧ l'.fieldSeparator = l.fieldSeparator ∧ l'.endByte = l.endByte

/-- Every register of the parser, and its RecordOut port, is unchanged (R17, R95). -/
abbrev Link.SameParser (l l' : Link) : Prop :=
  l'.rx = l.rx ∧ l'.phase = l.phase ∧ l'.fieldIndex = l.fieldIndex ∧ l'.acc = l.acc ∧
  l'.currentCommand = l.currentCommand ∧ l'.record = l.record ∧ l'.status = l.status ∧ l'.records = l.records

/-- The transmit context and the operation port's responses (with the model's own draw counter) are unchanged. -/
abbrev Link.SameEngine (l l' : Link) : Prop :=
  l'.tx = l.tx ∧ l'.responses = l.responses ∧ l'.draws = l.draws

/-- Everything outside instance `k` is unchanged: the parameters, the inputs, and every other instance (R14, R40). -/
abbrev State.OutsideKept (k : Nat) (s s' : State) : Prop :=
  s'.params = s.params ∧ s'.sel = s.sel ∧ s'.input = s.input ∧ s'.links.length = s.links.length ∧
  ∀ j, j ≠ k → s'.links[j]? = s.links[j]?

/-! ## Runs -/

/-- `n` steps, stopping at the first fault or refusal (R106: neither is ever cleared). -/
def run : Nat → State → StateOutcome
  | 0, s => .next s
  | n + 1, s =>
    match step s with
    | .next s' => run n s'
    | .fault r => .fault r
    | .refused r => .refused r

/-! ## Agreement on what the spec specifies -/

/-- Two instances that differ at most in the registers R30 calls unspecified: before CREATE the markers, the field index, the
accumulator and the status (S1), and until a command field is committed the command and the record (S2). -/
abbrev Link.Agree (l l' : Link) : Prop :=
  l.bound = l'.bound ∧ l.rx = l'.rx ∧ l.tx = l'.tx ∧ l.phase = l'.phase ∧
  l.draws = l'.draws ∧ l.responses = l'.responses ∧ l.records = l'.records ∧
  (l.bound = true → l.startByte = l'.startByte ∧ l.fieldSeparator = l'.fieldSeparator ∧ l.endByte = l'.endByte ∧
    l.fieldIndex = l'.fieldIndex ∧ l.acc = l'.acc ∧ l.status = l'.status) ∧
  (l.phase ≠ .idle → l.phase ≠ .readCommand → l.currentCommand = l'.currentCommand ∧ l.record = l'.record)

/-- Two machines that agree, instance by instance. -/
abbrev State.Agree (s s' : State) : Prop :=
  s.params = s'.params ∧ s.sel = s'.sel ∧ s.input = s'.input ∧ List.Forall₂ Link.Agree s.links s'.links

/-- Two steps that end alike: next states that agree, or the same fault, or the same refusal. -/
def AgreeingOutcomes : StateOutcome → StateOutcome → Prop
  | .next s, .next s' => s.Agree s'
  | .fault r, .fault r' => r = r'
  | .refused r, .refused r' => r = r'
  | _, _ => False

/-! ## Interleaving -/

/-- At most one operation, or one received byte. -/
def Input.single : Input → Prop
  | .op _ bytes => ∀ i more, decodeOp bytes = .ok (i, more) → more = []
  | .wire _ bytes => bytes.length ≤ 1

/-- Two runs that end with the same instances, whatever is still waiting, or in the same fault or refusal (R40). -/
def SameInstances : StateOutcome → StateOutcome → Prop
  | .next s, .next s' => s.params = s'.params ∧ s.links = s'.links
  | .fault r, .fault r' => r = r'
  | .refused r, .refused r' => r = r'
  | _, _ => False

/-! ## Groups of rows -/

/-- The HEX rows of the opcode table as the table and R69 give them: the instruction, its byte, its digit value. -/
def decimalRows : List (Instr × Byte × Nibble) :=
  [
    (.hex0, 0x30#8, 0#4), (.hex1, 0x31#8, 1#4), (.hex2, 0x32#8, 2#4), (.hex3, 0x33#8, 3#4),
    (.hex4, 0x34#8, 4#4), (.hex5, 0x35#8, 5#4), (.hex6, 0x36#8, 6#4), (.hex7, 0x37#8, 7#4),
    (.hex8, 0x38#8, 8#4), (.hex9, 0x39#8, 9#4)]

/-- The upper-case HEX rows. -/
def upperRows : List (Instr × Byte × Nibble) :=
  [
    (.hexUpperA, 0x41#8, 10#4), (.hexUpperB, 0x42#8, 11#4), (.hexUpperC, 0x43#8, 12#4), (.hexUpperD, 0x44#8, 13#4),
    (.hexUpperE, 0x45#8, 14#4), (.hexUpperF, 0x46#8, 15#4)]

/-- The lower-case HEX rows. -/
def lowerRows : List (Instr × Byte × Nibble) :=
  [
    (.hexLowerA, 0x61#8, 10#4), (.hexLowerB, 0x62#8, 11#4), (.hexLowerC, 0x63#8, 12#4), (.hexLowerD, 0x64#8, 13#4),
    (.hexLowerE, 0x65#8, 14#4), (.hexLowerF, 0x66#8, 15#4)]

/-- All 22 HEX rows. -/
def hexRows : List (Instr × Byte × Nibble) := decimalRows ++ upperRows ++ lowerRows

/-- An instruction of the Checksum Engine (40_checksum_engine.md). -/
def engineOp : Instr → Bool
  | .crcReset | .crcUpdate _ | .crcValue | .frame _ _ => true
  | _ => false

/-- A received byte: RX_BYTE or a wire row (42_frame_parser.md). -/
def receivedByte (i : Instr) : Bool :=
  match i with
  | .rxByte _ => true
  | i => i.format == .wireByte

/-! ## Digit strings -/

/-- The number a string of hex digits stands for, modulo 2^32 (R48, R70). -/
def hexNumber (digits : List Byte) : Word :=
  digits.foldl (fun old b => old * 16#32 + ((hexVal? b).getD 0).setWidth 32) 0#32

/-- Every byte is a hex digit (R48: a field is zero or more of them). -/
abbrev AllHex (digits : List Byte) : Prop := ∀ b ∈ digits, isHex b = true

end Sys2Proof.Machine
end

