-- ==== Sys2Proof/Certificates/Slice0/Obligations.lean ====
section
/-! DEFINITION. The statements about the model for the provers. Each docstring names the rule of spec/ it formalises. A statement
about an operation gives the whole next state, so it is its frame too: every register it does not list, every other instance,
the parameters and the inputs are unchanged. `s.putLink l` is `s` with the addressed instance's registers replaced by `l`, and
`s.address k q` is `s` with instance `k` addressed and `q` still waiting. -/

open Sys2Proof Sys2Proof.Machine

/-! ## Reset -/

/-- R117: power-on reset leaves every one of the `N_LINKS ≥ 1` instances unbound, both contexts `⊥`, phase `Idle`. -/
def Obligations.ResetLeavesEveryInstanceUnbound : Prop :=
  State.reset.links.length = Config.nLinks ∧ 1 ≤ Config.nLinks ∧
  ∀ l ∈ State.reset.links, l.bound = false ∧ l.rx = none ∧ l.tx = none ∧ l.phase = .idle

/-- R28, R30: the invariant holds at reset. -/
def Obligations.ResetMeetsTheInvariant : Prop := State.reset.Inv

/-- R28: every completed step keeps the invariant, from every state that has it. -/
def Obligations.StepKeepsTheInvariant : Prop :=
  ∀ s s' : State, s.Inv → step s = .next s' → s'.Inv

/-! ## Encodings -/

/-- R55: a well-formed host operation is read back from its bytes, whatever follows them. -/
def Obligations.DecodingAHostOperationsBytesGivesItBack : Prop :=
  ∀ (m : Markers) (i : Instr) (rest : List Byte), i.format = .hostOp → i.wf m = true →
    decodeOp (encode m i ++ rest) = .ok (i, rest)

/-- R55: what the host operation decoder reads is a well-formed host operation, and the bytes it took are that operation's. -/
def Obligations.DecodedBytesAreTheOperationsEncoding : Prop :=
  ∀ (m : Markers) (bytes rest : List Byte) (i : Instr), decodeOp bytes = .ok (i, rest) →
    i.format = .hostOp ∧ i.wf m = true ∧ bytes = encode m i ++ rest

/-- R51: under legal markers every byte has exactly one row of its own, START, SEP and END for the markers, a HEX row exactly for
the hex digits, OTHER for the rest; and a well-formed row is read back from its byte. -/
def Obligations.EveryByteHasExactlyOneRow : Prop :=
  ∀ m : Markers, m.legal = true →
    (∀ b : Byte,
      let i := decodeWire (some m) b
      encode m i = [b] ∧ i.format = .wireByte ∧ i.wf m = true ∧
      (i = .startMark ↔ b = m.start) ∧ (i = .sepMark ↔ b = m.sep) ∧ (i = .endMark ↔ b = m.fin) ∧
      ((∃ d, (i, b, d) ∈ hexRows) ↔ isHex b = true)) ∧
    (∀ (i : Instr) (b : Byte), i.wf m = true → encode m i = [b] → i.format = .wireByte → decodeWire (some m) b = i)

/-- R56 (that missing bytes are not taken from a later input is the model's choice, log 18): a step over a selector outside R55's
table is refused as reserved, and a step over an operation cut short as truncated, where no other instance has an operation waiting
(where one has, see `AStopEndsItsInstanceOnly`). -/
def Obligations.ReservedAndTruncatedOperationsAreRefused : Prop :=
  (∀ (s : State) (k : Nat) (l : Link) (sel : Byte) (more : List Byte) (rest : List Input),
    s.input = .op k (sel :: more) :: rest → s.links[k]? = some l → (∀ x ∈ rest, x.link = k) →
    ((sel.toNat = 0x00 ∨ (0x04 ≤ sel.toNat ∧ sel.toNat ≤ 0x0F) ∨ 0x14 ≤ sel.toNat) ↔
      step s = .refused .reservedSelector)) ∧
  (∀ (s : State) (k n : Nat) (l : Link) (m : Markers) (i : Instr) (rest : List Input),
    i.format = .hostOp → i.wf m = true → 0 < n → n < (encode m i).length →
    s.input = .op k ((encode m i).take n) :: rest → s.links[k]? = some l → (∀ x ∈ rest, x.link = k) →
    step s = .refused .truncated)

/-- R55, R51: words written out from the spec's tables. -/
def Obligations.WrittenOutWordsDecode : Prop :=
  decodeOp [0x01#8, 0x02#8, 0x1F#8, 0x03#8] = .ok (.create 0x02#8 0x1F#8 0x03#8, []) ∧
  decodeOp [0x02#8, 0x41#8] = .ok (.rxByte 0x41#8, []) ∧
  decodeOp [0x03#8] = .ok (.lastError, []) ∧
  decodeOp [0x11#8, 0x31#8, 0x12#8] = .ok (.crcUpdate 0x31#8, [0x12#8]) ∧
  decodeOp [0x13#8, 0x00#8, 0x40#8, 0x00#8, 0x01#8, 0x39#8] = .ok (.frame 0x0040#16 [0x39#8], []) ∧
  decodeWire (some Markers.default) 0x02#8 = .startMark ∧
  decodeWire (some Markers.default) 0x1F#8 = .sepMark ∧
  decodeWire (some Markers.default) 0x03#8 = .endMark ∧
  decodeWire (some Markers.default) 0x46#8 = .hexUpperF ∧
  decodeWire (some Markers.default) 0x66#8 = .hexLowerF ∧
  decodeWire (some Markers.default) 0x47#8 = .other 0x47#8

/-! ## Steps -/

/-- R4, R39, R102 (the input queue is the model's, log 1 and log 2): a step runs the first issued operation, or the first received
byte in its row, on the instance it is addressed to, with exactly its bytes taken, wherever that completes, and ends as it ends where
no other instance has an operation waiting (where one has, see `AStopEndsItsInstanceOnly`); with nothing issued the machine holds all
its state. -/
def Obligations.AStepRunsTheIssuedInstruction : Prop :=
  (∀ (s : State) (k : Nat) (l : Link) (bytes more : List Byte) (i : Instr) (rest : List Input),
    s.input = .op k bytes :: rest → s.links[k]? = some l → decodeOp bytes = .ok (i, more) →
    let start : State := { s with sel := k, input := waiting (.op k more :: rest) }
    (∀ t, exec i start = .next t → step s = .next t) ∧
    ((∀ x ∈ rest, x.link = k) → step s = exec i start)) ∧
  (∀ (s : State) (k : Nat) (l : Link) (b : Byte) (more : List Byte) (rest : List Input),
    s.input = .wire k (b :: more) :: rest → s.links[k]? = some l →
    let i := decodeWire (if l.bound then some ⟨l.startByte, l.fieldSeparator, l.endByte⟩ else none) b
    let start : State := { s with sel := k, input := waiting (.wire k more :: rest) }
    (∀ t, exec i start = .next t → step s = .next t) ∧
    ((∀ x ∈ rest, x.link = k) → step s = exec i start)) ∧
  (∀ s : State, waiting s.input = [] → step s = .next s)

/-- R76, R51: RX_BYTE of a byte is the byte's own row, in every state, bound or not. -/
def Obligations.RxByteRunsTheRowOfItsByte : Prop :=
  ∀ (s : State) (l : Link) (b : Byte), s.links[s.sel]? = some l →
    exec (.rxByte b) s =
      exec (decodeWire (if l.bound then some ⟨l.startByte, l.fieldSeparator, l.endByte⟩ else none) b) s

/-- R76: RX_BYTE always completes, for every byte, from every state that meets the invariant; it leaves the configuration, the
transmit context, the operation port and everything outside its instance alone. -/
def Obligations.RxByteAlwaysCompletes : Prop :=
  ∀ (s : State) (l : Link) (b : Byte), s.Inv → s.links[s.sel]? = some l →
    ∃ s' l', exec (.rxByte b) s = .next s' ∧ s'.links[s.sel]? = some l' ∧
      l.SameConfig l' ∧ l.SameEngine l' ∧ s.OutsideKept s.sel s'

/-! ## Link control -/

/-- R98, R97: CREATE binds an unbound instance with legal markers, and is refused by name on a bound instance and with illegal
markers. -/
def Obligations.CreateBindsAnUnboundInstance : Prop :=
  (∀ (a u e : Byte) (rest : List Byte),
    decodeOp (0x01#8 :: a :: u :: e :: rest) = .ok (.create a u e, rest)) ∧
  ∀ (s : State) (l : Link) (a u e : Byte), s.links[s.sel]? = some l →
    (l.bound = true → exec (.create a u e) s = .refused .alreadyCreated) ∧
    (l.bound = false → (a = u ∨ a = e ∨ u = e ∨ isHex a = true ∨ isHex u = true ∨ isHex e = true) →
      exec (.create a u e) s = .refused .illegalMarkers) ∧
    (l.bound = false → a ≠ u → a ≠ e → u ≠ e → isHex a = false → isHex u = false → isHex e = false →
      exec (.create a u e) s = .next (s.putLink
        { l with
          bound := true, startByte := a, fieldSeparator := u, endByte := e, rx := none, tx := none,
          phase := .idle, acc := 0#32, fieldIndex := 0#8, status := .ok,
          responses := l.responses ++ [.status .ok] }))

/-- R99: on an unbound instance every operation but CREATE leaves all state unchanged; a received byte is dropped, and the others
answer `InvalidInstance` (CRC_VALUE with some 16-bit value, FRAME with no output). The draw counter is the model's own (log 7). -/
def Obligations.UnboundOperationsChangeNothing : Prop :=
  ∀ (s : State) (l : Link), s.links[s.sel]? = some l → l.bound = false →
    (∀ i : Instr, receivedByte i = true → exec i s = .next s) ∧
    (∀ i : Instr, i = .lastError ∨ i = .crcReset ∨ (∃ b, i = .crcUpdate b) →
      exec i s = .next (s.putLink
        { l with responses := l.responses ++ [.status .invalidInstance] })) ∧
    (∃ v : Half, exec .crcValue s = .next (s.putLink
      { l with responses := l.responses ++ [.value .invalidInstance v], draws := l.draws + 1 })) ∧
    (∀ (cap : Half) (payload : List Byte), exec (.frame cap payload) s = .next (s.putLink
      { l with responses := l.responses ++ [.datagram .invalidInstance 0#16 []] }))

/-- R101: LAST_ERROR answers the parser's status, or `InvalidInstance` while unbound, and writes no register; from a state that
meets the invariant the status is one of R27's. -/
def Obligations.LastErrorReturnsTheStatus : Prop :=
  (∀ rest : List Byte, decodeOp (0x03#8 :: rest) = .ok (.lastError, rest)) ∧
  ∀ (s : State) (l : Link), s.links[s.sel]? = some l →
    exec .lastError s = .next (s.putLink
      { l with responses := l.responses ++ [.status (if l.bound then l.status else .invalidInstance)] }) ∧
    (s.Inv → l.bound = true →
      l.status ∈ [Status.ok, .inProgress, .invalidSign, .unknownCommand, .checksumError, .internalError])

/-! ## The Checksum Engine -/

/-- R59: a fold is an exclusive or into the high half and 8 rounds of the polynomial, most significant bit first; `⊥` stays `⊥`. -/
def Obligations.FoldIsEightRoundsOfThePolynomial : Prop :=
  (∀ (v : Half) (b : Byte), fold (some v) b = some
    (Nat.iterate (fun c : Half => if c.msb then (c <<< 1) ^^^ 0x1021#16 else c <<< 1) 8
      (v ^^^ (b.setWidth 16 <<< 8)))) ∧
  (∀ b : Byte, fold none b = none) ∧
  fold (some 0xFFFF#16) 0x31#8 = some 0xC782#16

/-- R59 (the spec's own derivation, 95_test_vectors.md L2.1): a fold is a shift by a byte and a table of 256 entries. -/
def Obligations.FoldIsAShiftAndATableEntry : Prop :=
  ∀ (v : Half) (b : Byte), foldByte v b = (v <<< 8) ^^^ foldByte 0#16 (v.extractLsb' 8 8 ^^^ b)

/-- R60: `CRC(s)` starts at `0xFFFF`, folds the bytes in order, and gives the check value. -/
def Obligations.CrcFoldsInOrderAndMeetsTheCheckValue : Prop :=
  crc [] = 0xFFFF#16 ∧
  (∀ (bytes : List Byte) (b : Byte), some (crc (bytes ++ [b])) = fold (some (crc bytes)) b) ∧
  crc [0x31#8, 0x32#8, 0x33#8, 0x34#8, 0x35#8, 0x36#8, 0x37#8, 0x38#8, 0x39#8] = 0x29B1#16

/-- R62: CRC_RESET sets the transmit context to `0xFFFF` whatever it held, and twice is as good as once. -/
def Obligations.CrcResetSetsTheInitialValue : Prop :=
  (∀ rest : List Byte, decodeOp (0x10#8 :: rest) = .ok (.crcReset, rest)) ∧
  ∀ (s : State) (l : Link), s.links[s.sel]? = some l →
    (l.bound = false → exec .crcReset s = .next (s.putLink
      { l with responses := l.responses ++ [.status .invalidInstance] })) ∧
    (l.bound = true → exec .crcReset s = .next (s.putLink
      { l with tx := some 0xFFFF#16, responses := l.responses ++ [.status .ok] })) ∧
    (∀ s1 s2 l1 l2, exec .crcReset s = .next s1 → exec .crcReset s1 = .next s2 →
      s1.links[s.sel]? = some l1 → s2.links[s.sel]? = some l2 → l2.tx = l1.tx)

/-- R63: CRC_UPDATE folds one byte of any value into the transmit context; `⊥` stays `⊥`. -/
def Obligations.CrcUpdateFoldsOneByte : Prop :=
  (∀ (b : Byte) (rest : List Byte), decodeOp (0x11#8 :: b :: rest) = .ok (.crcUpdate b, rest)) ∧
  ∀ (s : State) (l : Link) (b : Byte), s.links[s.sel]? = some l →
    (l.bound = false → exec (.crcUpdate b) s = .next (s.putLink
      { l with responses := l.responses ++ [.status .invalidInstance] })) ∧
    (l.bound = true → ∀ v, l.tx = some v → exec (.crcUpdate b) s = .next (s.putLink
      { l with tx := fold (some v) b, responses := l.responses ++ [.status .ok] })) ∧
    (l.bound = true → l.tx = none → exec (.crcUpdate b) s = .next (s.putLink
      { l with tx := none, responses := l.responses ++ [.status .ok] }))

/-- R64: CRC_VALUE answers the transmit context's value, high byte first, and writes no register; never reset, it faults; unbound,
it answers `InvalidInstance` with some value (a draw, log 7). -/
def Obligations.CrcValueReadsTheContextOrFaults : Prop :=
  (∀ rest : List Byte, decodeOp (0x12#8 :: rest) = .ok (.crcValue, rest)) ∧
  (∀ (st : Status) (v : Half), (Response.value st v).toBytes = [st.byte, v.extractLsb' 8 8, v.extractLsb' 0 8]) ∧
  ∀ (s : State) (l : Link), s.links[s.sel]? = some l →
    (l.bound = true → ∀ v, l.tx = some v → exec .crcValue s = .next (s.putLink
      { l with responses := l.responses ++ [.value .ok v] })) ∧
    (l.bound = true → l.tx = none → exec .crcValue s = .fault .undefinedRead) ∧
    (l.bound = false → ∃ v, exec .crcValue s = .next (s.putLink
      { l with responses := l.responses ++ [.value .invalidInstance v], draws := l.draws + 1 }))

/-- R65: the checksum text in radix 10 and in radix 16 is made of the radix's digits, stands for the value, and has no leading
zero and at most 5 or 4 digits. -/
def Obligations.RenderIsTheCanonicalNumeral : Prop :=
  ∀ v : Half,
    ((∀ c ∈ render v 10, 0x30 ≤ c.toNat ∧ c.toNat ≤ 0x39) ∧
      (render v 10).foldl (fun n c => n * 10 + (c.toNat - 0x30)) 0 = v.toNat ∧
      1 ≤ (render v 10).length ∧ (render v 10).length ≤ 5 ∧
      ((render v 10).head? = some 0x30#8 → v = 0#16 ∧ render v 10 = [0x30#8])) ∧
    ((∀ c ∈ render v 16, (0x30 ≤ c.toNat ∧ c.toNat ≤ 0x39) ∨ (0x41 ≤ c.toNat ∧ c.toNat ≤ 0x46)) ∧
      (render v 16).foldl (fun n c => n * 16 + (if c.toNat ≤ 0x39 then c.toNat - 0x30 else c.toNat - 0x37)) 0 = v.toNat ∧
      1 ≤ (render v 16).length ∧ (render v 16).length ≤ 4 ∧
      ((render v 16).head? = some 0x30#8 → v = 0#16 ∧ render v 16 = [0x30#8]))

/-- R66: FRAME leaves the payload's CRC in the transmit context, and answers the datagram, or `LengthError` and nothing when the
buffer is too small; its operands and its response are laid out high byte first. -/
def Obligations.FrameBuildsTheDatagram : Prop :=
  (∀ (st : Status) (m : Half) (out : List Byte),
    (Response.datagram st m out).toBytes = [st.byte, m.extractLsb' 8 8, m.extractLsb' 0 8] ++ out) ∧
  (∀ (ch cl nh nl : Byte) (more : List Byte),
    (nh.toNat * 256 + nl.toNat ≤ more.length → decodeOp (0x13#8 :: ch :: cl :: nh :: nl :: more) =
      .ok (.frame (ch ++ cl) (more.take (nh.toNat * 256 + nl.toNat)), more.drop (nh.toNat * 256 + nl.toNat))) ∧
    (more.length < nh.toNat * 256 + nl.toNat → decodeOp (0x13#8 :: ch :: cl :: nh :: nl :: more) = .error .truncated)) ∧
  ∀ (s : State) (l : Link) (cap : Half) (payload : List Byte), s.links[s.sel]? = some l →
    let text := render (crc payload) 10
    let out := [l.startByte] ++ payload ++ [l.fieldSeparator] ++ text ++ [l.endByte]
    out.length = payload.length + 3 + text.length ∧
    (l.bound = false → exec (.frame cap payload) s = .next (s.putLink
      { l with responses := l.responses ++ [.datagram .invalidInstance 0#16 []] })) ∧
    (l.bound = true → out.length ≤ cap.toNat → exec (.frame cap payload) s = .next (s.putLink
      { l with tx := some (crc payload),
               responses := l.responses ++ [.datagram .ok (BitVec.ofNat 16 out.length) out] })) ∧
    (l.bound = true → cap.toNat < out.length → exec (.frame cap payload) s = .next (s.putLink
      { l with tx := some (crc payload), responses := l.responses ++ [.datagram .lengthError 0#16 []] }))

/-! ## The hex-ASCII decoder -/

/-- R68, R69: the hex digits are 22 byte values, with the values of their characters, and `HexVal` is defined nowhere else. -/
def Obligations.HexDigitsAreTheTwentyTwoBytes : Prop :=
  ∀ b : Byte,
    (isHex b = true ↔ (0x30 ≤ b.toNat ∧ b.toNat ≤ 0x39) ∨ (0x41 ≤ b.toNat ∧ b.toNat ≤ 0x46) ∨
      (0x61 ≤ b.toNat ∧ b.toNat ≤ 0x66)) ∧
    (0x30 ≤ b.toNat ∧ b.toNat ≤ 0x39 → hexVal? b = some (BitVec.ofNat 4 (b.toNat - 0x30))) ∧
    (0x41 ≤ b.toNat ∧ b.toNat ≤ 0x46 → hexVal? b = some (BitVec.ofNat 4 (b.toNat - 0x37))) ∧
    (0x61 ≤ b.toNat ∧ b.toNat ≤ 0x66 → hexVal? b = some (BitVec.ofNat 4 (b.toNat - 0x57))) ∧
    (isHex b = false → hexVal? b = none)

/-- R70, R79, R82, R85, R88 (and R78 in `Idle`): each of the 22 HEX rows folds its byte and takes its digit into the accumulator in
the command and payload phases, takes it without folding in `ValidateChecksum`, and is dropped in `Idle`. -/
def Obligations.HexDigitsAreFoldedAndAccumulated : Prop :=
  ∀ row ∈ hexRows, ∀ (s : State) (l : Link), s.links[s.sel]? = some l → l.bound = true →
    (l.phase = .readCommand ∨ l.phase = .readMotorValues ∨ l.phase = .readPidAngle →
      exec row.1 s = .next (s.putLink
        { l with rx := fold l.rx row.2.1, acc := l.acc * 16#32 + row.2.2.setWidth 32 })) ∧
    (l.phase = .validateChecksum →
      exec row.1 s = .next (s.putLink
        { l with acc := l.acc * 16#32 + row.2.2.setWidth 32 })) ∧
    (l.phase = .idle → exec row.1 s = .next s)

/-- R74 (binary64's layout is PRESUMED, log 8): `PID_TO_REAL` is the exact conversion, a positive normal number
`(1 + f / 2^52) * 2^(e - 1023)` equal to the raw value, and 0 for 0. -/
def Obligations.PidToRealIsExact : Prop :=
  pidToReal 0#32 = 0#64 ∧
  ∀ v : Word, v ≠ 0#32 →
    let bits := (pidToReal v).toNat
    1023 ≤ bits / 2 ^ 52 ∧ bits / 2 ^ 52 < 2047 ∧
    (2 ^ 52 + bits % 2 ^ 52) * 2 ^ (bits / 2 ^ 52 - 1023) = v.toNat * 2 ^ 52

/-! ## The Frame Parser -/

/-- R77: a start byte re-arms the parser in every phase and under every status, as the START row and as RX_BYTE; it is not folded,
and the command and the record keep their values. -/
def Obligations.StartRearmsInEveryPhase : Prop :=
  ∀ (s : State) (l : Link), s.links[s.sel]? = some l → l.bound = true → ∀ i, i = .startMark ∨ i = .rxByte l.startByte →
    exec i s = .next (s.putLink
      { l with rx := some 0xFFFF#16, acc := 0#32, fieldIndex := 0#8, status := .inProgress, phase := .readCommand })

/-- R78: in `Idle` every byte but the start byte is dropped, in its own row and as RX_BYTE, and nothing at all changes. -/
def Obligations.IdleDropsEveryByteButStart : Prop :=
  ∀ (s : State) (l : Link), s.links[s.sel]? = some l → l.bound = true → l.phase = .idle →
    (∀ i : Instr, i.format = .wireByte → i.wf l.markers = true → i ≠ .startMark → exec i s = .next s) ∧
    (∀ b : Byte, b ≠ l.startByte → exec (.rxByte b) s = .next s)

/-- R80, R73: the separator that ends the command field is folded, clears the accumulator and selects the command by all 32 bits,
or ends the frame with `UnknownCommand` (that it is folded there too is DEDUCED from R80 and P13 against R91, log 19). -/
def Obligations.SeparatorSelectsTheCommand : Prop :=
  ∀ (s : State) (l : Link), s.links[s.sel]? = some l → l.bound = true → l.phase = .readCommand →
    (l.acc = s.params.cmdMotor → exec .sepMark s = .next (s.putLink
      { l with rx := fold l.rx l.fieldSeparator, acc := 0#32, currentCommand := .motor,
               record := .motorValues 0#8 0#8 0#8 0#8, fieldIndex := 0#8, phase := .readMotorValues })) ∧
    (l.acc ≠ s.params.cmdMotor → l.acc = s.params.cmdPid → exec .sepMark s = .next (s.putLink
      { l with rx := fold l.rx l.fieldSeparator, acc := 0#32, currentCommand := .pid,
               record := .pidAngle 0#8 0#32 0#32 0#32, fieldIndex := 0#8, phase := .readPidAngle })) ∧
    (l.acc ≠ s.params.cmdMotor → l.acc ≠ s.params.cmdPid → exec .sepMark s = .next (s.putLink
      { l with rx := fold l.rx l.fieldSeparator, acc := 0#32, status := .unknownCommand, phase := .idle }))

/-- R83, R72: a separator in `ReadMotorValues` is folded and commits the low 8 bits to the next motor field; the fourth enters
`ValidateChecksum`; an index of 4 or more ends the frame with `InternalError` (that the separator is folded there too is DEDUCED from
R83 against R91, log 19). -/
def Obligations.SeparatorCommitsAMotorField : Prop :=
  ∀ (s : State) (l : Link) (m1 m2 m3 m4 : Byte), s.links[s.sel]? = some l → l.bound = true →
    l.phase = .readMotorValues → l.record = .motorValues m1 m2 m3 m4 →
    let v : Byte := l.acc.setWidth 8
    (l.fieldIndex = 0#8 → exec .sepMark s = .next (s.putLink
      { l with rx := fold l.rx l.fieldSeparator, acc := 0#32, record := .motorValues v m2 m3 m4, fieldIndex := 1#8 })) ∧
    (l.fieldIndex = 1#8 → exec .sepMark s = .next (s.putLink
      { l with rx := fold l.rx l.fieldSeparator, acc := 0#32, record := .motorValues m1 v m3 m4, fieldIndex := 2#8 })) ∧
    (l.fieldIndex = 2#8 → exec .sepMark s = .next (s.putLink
      { l with rx := fold l.rx l.fieldSeparator, acc := 0#32, record := .motorValues m1 m2 v m4, fieldIndex := 3#8 })) ∧
    (l.fieldIndex = 3#8 → exec .sepMark s = .next (s.putLink
      { l with rx := fold l.rx l.fieldSeparator, acc := 0#32, record := .motorValues m1 m2 m3 v, fieldIndex := 4#8,
               phase := .validateChecksum })) ∧
    (4 ≤ l.fieldIndex.toNat → exec .sepMark s = .next (s.putLink
      { l with rx := fold l.rx l.fieldSeparator, acc := 0#32, status := .internalError, phase := .idle }))

/-- R86, R73, R74: a separator in `ReadPidAngle` is folded and commits the selector, checked in all 32 bits against the three codes,
or the next component in full; the last enters `ValidateChecksum`; an index of 4 or more ends the frame with `InternalError` (that the
separator is folded where it ends the frame is DEDUCED from R86, P28 and P29 against R91, log 19). -/
def Obligations.SeparatorCommitsAPidField : Prop :=
  ∀ (s : State) (l : Link) (sub : Byte) (a b c : Word), s.links[s.sel]? = some l → l.bound = true →
    l.phase = .readPidAngle → l.record = .pidAngle sub a b c →
    (∀ code : Byte, code = s.params.subRollPitch ∨ code = s.params.subYaw ∨ code = s.params.subAngle →
      l.fieldIndex = 0#8 → l.acc = code.setWidth 32 → exec .sepMark s = .next (s.putLink
        { l with rx := fold l.rx l.fieldSeparator, acc := 0#32, record := .pidAngle code a b c, fieldIndex := 1#8 })) ∧
    (l.fieldIndex = 0#8 → l.acc ≠ s.params.subRollPitch.setWidth 32 → l.acc ≠ s.params.subYaw.setWidth 32 →
      l.acc ≠ s.params.subAngle.setWidth 32 → exec .sepMark s = .next (s.putLink
        { l with rx := fold l.rx l.fieldSeparator, acc := 0#32, status := .unknownCommand, phase := .idle })) ∧
    (l.fieldIndex = 1#8 → exec .sepMark s = .next (s.putLink
      { l with rx := fold l.rx l.fieldSeparator, acc := 0#32, record := .pidAngle sub l.acc b c, fieldIndex := 2#8 })) ∧
    (l.fieldIndex = 2#8 → exec .sepMark s = .next (s.putLink
      { l with rx := fold l.rx l.fieldSeparator, acc := 0#32, record := .pidAngle sub a l.acc c, fieldIndex := 3#8 })) ∧
    (l.fieldIndex = 3#8 → exec .sepMark s = .next (s.putLink
      { l with rx := fold l.rx l.fieldSeparator, acc := 0#32, record := .pidAngle sub a b l.acc, fieldIndex := 4#8,
               phase := .validateChecksum })) ∧
    (4 ≤ l.fieldIndex.toNat → exec .sepMark s = .next (s.putLink
      { l with rx := fold l.rx l.fieldSeparator, acc := 0#32, status := .internalError, phase := .idle }))

/-- R89, R75: the end byte in `ValidateChecksum` compares the checksum field with the receive CRC in all 32 bits: equal, the status
is `Ok` and the record goes out; else `ChecksumError` and nothing goes out. Either way the field index is 0 and the phase `Idle`. -/
def Obligations.EndComparesTheChecksum : Prop :=
  ∀ (s : State) (l : Link) (c : Half), s.links[s.sel]? = some l → l.bound = true → l.phase = .validateChecksum →
    l.rx = some c →
    (l.acc = c.setWidth 32 → exec .endMark s = .next (s.putLink
      { l with acc := 0#32, status := .ok, fieldIndex := 0#8, phase := .idle,
               records := l.records ++ [l.record.out] })) ∧
    (l.acc ≠ c.setWidth 32 → exec .endMark s = .next (s.putLink
      { l with acc := 0#32, status := .checksumError, fieldIndex := 0#8, phase := .idle }))

/-- R81, R84, R87, R90: a byte a reading phase does not accept (END in the command and payload phases, SEP in `ValidateChecksum`,
OTHER in all four) sets `InvalidSign` and sends the phase to `Idle`; it is not folded, and no other register changes. -/
def Obligations.UnacceptedBytesEndTheFrame : Prop :=
  ∀ (s : State) (l : Link) (i : Instr), s.links[s.sel]? = some l → l.bound = true →
    ((i = .endMark ∧ (l.phase = .readCommand ∨ l.phase = .readMotorValues ∨ l.phase = .readPidAngle)) ∨
      (i = .sepMark ∧ l.phase = .validateChecksum) ∨
      ((∃ b, i = .other b ∧ isOtherByte l.markers b = true) ∧ l.phase ≠ .idle)) →
    exec i s = .next { s with links := s.links.set s.sel { l with status := .invalidSign, phase := .idle } }

/-- R57, R95: what a RecordOut event carries, and its bytes. -/
def Obligations.RecordOutCarriesTheRecord : Prop :=
  (∀ m1 m2 m3 m4 : Byte, (Record.motorValues m1 m2 m3 m4).out = .motorValues m1 m2 m3 m4 ∧
    (Record.motorValues m1 m2 m3 m4).out.toBytes = [0x00#8, m1, m2, m3, m4]) ∧
  (∀ (sub : Byte) (a b c : Word),
    (Record.pidAngle sub a b c).out = .pidAngle sub a b c (pidToReal a) (pidToReal b) (pidToReal c) ∧
    (Record.pidAngle sub a b c).out.toBytes.length = 14 ∧
    (Record.pidAngle sub a b c).out.toBytes.take 2 = [0x01#8, sub] ∧
    ∀ j : Fin 3, ((((Record.pidAngle sub a b c).out.toBytes.drop (2 + 4 * j.val)).take 4).foldl
      (fun n d => n * 256 + d.toNat) 0) = ([a, b, c].getD j.val 0).toNat)

/-- R26, R35, R55: the numbers of the nine status codes, and a response's bytes, high byte first. -/
def Obligations.ResponsesAreLaidOutHighByteFirst : Prop :=
  ([Status.ok, .inProgress, .invalidSign, .unknownCommand, .checksumError, .invalidPointer, .invalidInstance,
    .internalError, .lengthError].map fun st => st.code.toNat) = [0, 1, 2, 3, 4, 5, 6, 7, 8] ∧
  (∀ st : Status, (Response.status st).toBytes = [BitVec.ofNat 8 st.code.toNat]) ∧
  (∀ (st : Status) (v : Half), (Response.value st v).toBytes =
    [BitVec.ofNat 8 st.code.toNat, BitVec.ofNat 8 (v.toNat / 256), BitVec.ofNat 8 v.toNat]) ∧
  (∀ (st : Status) (m : Half) (out : List Byte), (Response.datagram st m out).toBytes =
    [BitVec.ofNat 8 st.code.toNat, BitVec.ofNat 8 (m.toNat / 256), BitVec.ofNat 8 m.toNat] ++ out)

/-! ## Whole streams -/

/-- R78, R92: received bytes without a start byte leave an inert instance, and everything else, exactly as it was. -/
def Obligations.InertUntilTheNextStartByte : Prop :=
  ∀ (s : State) (k : Nat) (l : Link) (bytes : List Byte) (rest : List Input),
    s.input = .wire k bytes :: rest → bytes ≠ [] → s.links[k]? = some l → l.bound = true → l.phase = .idle →
    l.startByte ∉ bytes →
    run bytes.length s = .next (s.address k (waiting rest))

/-- R41, R102: chunking cannot be seen. The same bytes in one piece, in two pieces, or as single RX_BYTE operations end in the same
outcome, from every state with R28 (c): a reading phase has a receive CRC. -/
def Obligations.ChunkingCannotBeSeen : Prop :=
  ∀ (s : State) (k : Nat) (l : Link) (a b : List Byte) (rest : List Input), s.links[k]? = some l → (l.bound = true → l.ReadingHasCrc) →
    a ++ b ≠ [] →
    run (a ++ b).length { s with input := .wire k (a ++ b) :: rest } =
      run (a ++ b).length { s with input := .wire k a :: .wire k b :: rest } ∧
    run (a ++ b).length { s with input := .wire k (a ++ b) :: rest } =
      run (a ++ b).length { s with input := .op k ((a ++ b).flatMap fun x => [0x02#8, x]) :: rest }

/-- R94: in a frame that reaches `ValidateChecksum` the receive CRC is the CRC of the bytes strictly after the start byte, up to and
including the separator that ends the last payload field; the checksum digits are not in it. -/
def Obligations.ReceiveCrcCoversCommandAndPayload : Prop :=
  ∀ (s s' : State) (k : Nat) (l l' : Link) (body digits : List Byte) (rest : List Input),
    s.links[k]? = some l → l.bound = true → l.markers.legal = true → l.startByte ∉ body → AllHex digits →
    s.input = .wire k ([l.startByte] ++ body ++ [l.fieldSeparator] ++ digits) :: rest →
    run ([l.startByte] ++ body ++ [l.fieldSeparator] ++ digits).length s = .next s' →
    s'.links[k]? = some l' → l'.phase = .validateChecksum →
    l'.rx = some (crc (body ++ [l.fieldSeparator]))

/-- R45, R46, R89: from any state of a bound instance, whatever frame is in flight, a motor frame is decoded: its four fields go out
as a record and the status is `Ok` exactly when its checksum field equals the CRC; else the status is `ChecksumError` and nothing
goes out. Fields may be empty and of any length. -/
def Obligations.MotorFrameIsDecoded : Prop :=
  ∀ (s : State) (k : Nat) (l : Link) (cmd f1 f2 f3 f4 chk : List Byte) (rest : List Input),
    s.links[k]? = some l → l.bound = true → l.markers.legal = true →
    AllHex cmd → AllHex f1 → AllHex f2 → AllHex f3 → AllHex f4 → AllHex chk →
    hexNumber cmd = s.params.cmdMotor →
    let sep := [l.fieldSeparator]
    let body := cmd ++ sep ++ f1 ++ sep ++ f2 ++ sep ++ f3 ++ sep ++ f4 ++ sep
    let frame := [l.startByte] ++ body ++ chk ++ [l.endByte]
    let valid := hexNumber chk = (crc body).setWidth 32
    let m1 : Byte := (hexNumber f1).setWidth 8
    let m2 : Byte := (hexNumber f2).setWidth 8
    let m3 : Byte := (hexNumber f3).setWidth 8
    let m4 : Byte := (hexNumber f4).setWidth 8
    s.input = .wire k frame :: rest →
    run frame.length s = .next ((s.address k (waiting rest)).putLink
      { l with
        rx := some (crc body), acc := 0#32, fieldIndex := 0#8, phase := .idle, currentCommand := .motor,
        record := .motorValues m1 m2 m3 m4,
        status := if valid then .ok else .checksumError,
        records := l.records ++ (if valid then [.motorValues m1 m2 m3 m4] else []) })

/-- R45, R47, R89: likewise a PID/angle frame whose selector is one of the three sub-command codes. -/
def Obligations.PidFrameIsDecoded : Prop :=
  ∀ (s : State) (k : Nat) (l : Link) (cmd sel fa fb fc chk : List Byte) (code : Byte) (rest : List Input),
    s.params.Legal → s.links[k]? = some l → l.bound = true → l.markers.legal = true →
    AllHex cmd → AllHex sel → AllHex fa → AllHex fb → AllHex fc → AllHex chk →
    hexNumber cmd = s.params.cmdPid →
    code = s.params.subRollPitch ∨ code = s.params.subYaw ∨ code = s.params.subAngle →
    hexNumber sel = code.setWidth 32 →
    let sep := [l.fieldSeparator]
    let body := cmd ++ sep ++ sel ++ sep ++ fa ++ sep ++ fb ++ sep ++ fc ++ sep
    let frame := [l.startByte] ++ body ++ chk ++ [l.endByte]
    let valid := hexNumber chk = (crc body).setWidth 32
    let a := hexNumber fa
    let b := hexNumber fb
    let c := hexNumber fc
    s.input = .wire k frame :: rest →
    run frame.length s = .next ((s.address k (waiting rest)).putLink
      { l with
        rx := some (crc body), acc := 0#32, fieldIndex := 0#8, phase := .idle, currentCommand := .pid,
        record := .pidAngle code a b c,
        status := if valid then .ok else .checksumError,
        records := l.records ++
          (if valid then [.pidAngle code a b c (pidToReal a) (pidToReal b) (pidToReal c)] else []) })

/-- R77, R93, R118: a start byte wipes out the past. Two bound instances with the same markers, whatever they were decoding, end in
the same phase, status, accumulator, field index and receive CRC after a start byte and any further bytes, and emit the same
records. -/
def Obligations.AStartByteForgetsTheOldFrame : Prop :=
  ∀ (s t : State) (k : Nat) (l m : Link) (bytes : List Byte) (rest : List Input),
    s.params = t.params → s.links[k]? = some l → t.links[k]? = some m → l.bound = true → m.bound = true →
    l.markers = m.markers →
    s.input = .wire k (l.startByte :: bytes) :: rest → t.input = .wire k (l.startByte :: bytes) :: rest →
    ∃ s' t' l' m' new, run (bytes.length + 1) s = .next s' ∧ run (bytes.length + 1) t = .next t' ∧
      s'.links[k]? = some l' ∧ t'.links[k]? = some m' ∧
      l'.phase = m'.phase ∧ l'.status = m'.status ∧ l'.acc = m'.acc ∧ l'.fieldIndex = m'.fieldIndex ∧ l'.rx = m'.rx ∧
      l'.records = l.records ++ new ∧ m'.records = m.records ++ new

/-! ## Whole-machine rules -/

/-- R40: operations on different instances commute: in the other order they complete too, and end in the same instances. -/
def Obligations.OperationsOnDifferentInstancesCommute : Prop :=
  ∀ (s s1 s2 : State) (i j : Instr) (a b : Nat), a ≠ b →
    exec i { s with sel := a } = .next s1 → exec j { s1 with sel := b } = .next s2 →
    ∃ s3 s4, exec j { s with sel := b } = .next s3 ∧ exec i { s3 with sel := a } = .next s4 ∧
      s4.links = s2.links ∧ s4.params = s2.params ∧ s4.input = s2.input

/-- R14, R39: an operation writes its own instance only, and reads its own instance only: what it does there does not depend on any
other. -/
def Obligations.AnOperationTouchesOnlyItsInstance : Prop :=
  ∀ (i : Instr) (s t s' : State), exec i s = .next s' →
    s.OutsideKept s.sel s' ∧
    (t.params = s.params → t.sel = s.sel → t.links[t.sel]? = s.links[s.sel]? →
      ∃ t', exec i t = .next t' ∧ t'.links[t.sel]? = s'.links[s.sel]?)

/-- R61, R27: an engine operation leaves the configuration and every parser register, `L.status` among them, alone, and what it does
does not depend on a parser register; a received byte leaves the configuration and the transmit side alone, and what it does does
not depend on the transmit side. -/
def Obligations.EngineAndParserDoNotInterfere : Prop :=
  ∀ (i : Instr) (s s' : State) (l l' : Link), s.links[s.sel]? = some l → exec i s = .next s' →
    s'.links[s.sel]? = some l' →
    (engineOp i = true → l.SameConfig l' ∧ l.SameParser l' ∧
      ∀ m : Link, l.SameConfig m → l.SameEngine m →
        ∃ t m', exec i { s with links := s.links.set s.sel m } = .next t ∧ t.links[s.sel]? = some m' ∧ l'.SameEngine m') ∧
    (receivedByte i = true → l.SameConfig l' ∧ l.SameEngine l' ∧
      ∀ m : Link, l.SameConfig m → l.SameParser m →
        ∃ t m', exec i { s with links := s.links.set s.sel m } = .next t ∧ t.links[s.sel]? = some m' ∧ l'.SameParser m')

/-- R18, R19: once created, an instance stays bound, with the markers it was given, through every step. -/
def Obligations.MarkersAreFixedOnceCreated : Prop :=
  ∀ (s s' : State) (k : Nat) (l : Link), step s = .next s' → s.links[k]? = some l → l.bound = true →
    ∃ l', s'.links[k]? = some l' ∧ l.SameConfig l'

/-- R95: an instruction emits at most one record, and emits one only as the end byte of a frame in `ValidateChecksum` whose checksum
field equals the receive CRC, which then ends with `Ok`. -/
def Obligations.RecordsGoOutOnlyForValidFrames : Prop :=
  ∀ (i : Instr) (s s' : State) (l l' : Link), exec i s = .next s' → s.links[s.sel]? = some l →
    s'.links[s.sel]? = some l' →
    l'.records = l.records ∨
    (∃ c, (i = .endMark ∨ i = .rxByte l.endByte) ∧ l.bound = true ∧ l.phase = .validateChecksum ∧ l.rx = some c ∧
      l.acc = c.setWidth 32 ∧ l'.status = .ok ∧ l'.phase = .idle ∧ l'.records = l.records ++ [l.record.out])

/-- R106, R76 (a missing instance is the model's own refusal, log 4): from a state that meets the invariant, the only fault is
CRC_VALUE on a bound instance whose transmit context was never reset, and the only refusals are CREATE's two. -/
def Obligations.OnlyCrcValueFaultsAndOnlyCreateIsRefused : Prop :=
  ∀ (i : Instr) (s : State), s.Inv →
    (∀ r, exec i s = .fault r →
      r = .undefinedRead ∧ i = .crcValue ∧ ∃ l, s.links[s.sel]? = some l ∧ l.bound = true ∧ l.tx = none) ∧
    (∀ r, exec i s = .refused r →
      (r = .noSuchLink ∧ s.links[s.sel]? = none) ∨
      ∃ a u e l, i = .create a u e ∧ s.links[s.sel]? = some l ∧
        ((r = .alreadyCreated ∧ l.bound = true) ∨
          (r = .illegalMarkers ∧ l.bound = false ∧ Markers.legal ⟨a, u, e⟩ = false)))

/-- R100: no step brings `InvalidPointer` into a status register or a response. -/
def Obligations.InvalidPointerIsNeverProduced : Prop :=
  ∀ s s' : State, step s = .next s' →
    (∀ l ∈ s.links, l.status ≠ .invalidPointer ∧ ∀ r ∈ l.responses, r.st ≠ .invalidPointer) →
    ∀ l ∈ s'.links, l.status ≠ .invalidPointer ∧ ∀ r ∈ l.responses, r.st ≠ .invalidPointer

/-- R30, S1, S2: no unspecified register is ever read. From two machines that differ at most in the registers R30 leaves unspecified
(so the values log 5 names for them cannot be seen), a step ends alike. -/
def Obligations.UnspecifiedRegistersAreNeverRead : Prop :=
  ∀ s t : State, s.Agree t → AgreeingOutcomes (step s) (step t)

/-! ## Encodings of the enumerated registers -/

/-- R22, R24: the phase's five codes in 3 bits, of which 5 to 7 are never held and `Idle`'s is held after reset, and the two codes of
`current_command`. -/
def Obligations.PhaseAndCommandHaveTheirCodes : Prop :=
  ([Phase.idle, .readCommand, .readMotorValues, .readPidAngle, .validateChecksum].map fun ph => ph.code.toNat) =
    [0, 1, 2, 3, 4] ∧
  (∀ ph : Phase, ph.code.toNat < 5) ∧
  ([CommandTag.motor, .pid].map fun tag => tag.code.toNat) = [0, 1] ∧
  (∀ l ∈ State.reset.links, l.phase.code = 0#3)

/-! ## Stops and interleaving -/

/-- R106, R40 (which stop a machine with nothing left to run answers, and when, is the model's choice, log 13): an operation that ends
in a fault or a refusal ends its own instance only. It stays where it is and its instance is never touched again; the other instances
step as if its instance had issued nothing; and with none of them waiting the step answers the stop. -/
def Obligations.AStopEndsItsInstanceOnly : Prop :=
  ∀ (s : State) (x : Input) (rest : List Input) (st : Stop), s.input = x :: rest → x.spent = false →
    attempt s x [] [] = st.outcome →
    let others := rest.filter fun y => y.link != x.link
    (∀ t, step s = .next t → x ∈ t.input ∧ t.links[x.link]? = s.links[x.link]?) ∧
    (waiting others ≠ [] → ∀ t, step { s with input := others } = .next t →
      ∃ t', step s = .next t' ∧ t'.links = t.links ∧ t'.params = t.params) ∧
    (waiting others = [] → step s = st.outcome)

/-- R40 with R106: how operations on different instances interleave cannot be seen, whether they complete, fault or are refused. Two
single operations of different instances, issued in either order before anything else, leave the same instances after two steps, or
end in the same stop. -/
def Obligations.InterleavingCannotBeSeen : Prop :=
  ∀ (s : State) (x y : Input) (rest : List Input), x.link ≠ y.link → x.single → y.single →
    SameInstances (run 2 { s with input := x :: y :: rest }) (run 2 { s with input := y :: x :: rest })
end

