-- ==== Sys2Proof/Laws/Decode.lean ====
section
/-! SUPPORT. What the decoder's small functions do: digits, selectors, byte order. -/

namespace Sys2Proof

/-- A fact about every byte is 256 facts. -/
theorem forall_byte {P : Byte → Prop} (h : ∀ n : Fin 256, P (BitVec.ofNat 8 n.val)) (b : Byte) : P b := by
  have := h ⟨b.toNat, b.isLt⟩
  simpa using this

/-- `HexVal` is defined exactly where `IsHex` holds (R69). -/
theorem hexVal?_isSome (b : Byte) : (hexVal? b).isSome = isHex b := by
  refine forall_byte (P := fun b => (hexVal? b).isSome = isHex b) ?_ b
  decide +kernel

theorem hexVal?_of_isHex {b : Byte} (h : isHex b = true) : ∃ d, hexVal? b = some d :=
  Option.isSome_iff_exists.mp (hexVal?_isSome b ▸ h)

theorem hexVal?_of_not_isHex {b : Byte} (h : isHex b = false) : hexVal? b = none := by
  have := hexVal?_isSome b
  rw [h] at this
  simpa using this

/-- The hex rows are the rows of the hex digits. -/
theorem hexRow?_isSome (b : Byte) : (hexRow? b).isSome = isHex b := by
  refine forall_byte (P := fun b => (hexRow? b).isSome = isHex b) ?_ b
  decide +kernel

theorem hexRow?_of_not_isHex {b : Byte} (h : isHex b = false) : hexRow? b = none := by
  have := hexRow?_isSome b
  rw [h] at this
  simpa using this

/-- A hex row's byte is the byte it was found by. -/
theorem wireByte?_of_hexRow? (m : Markers) {b : Byte} {i : Instr} (h : hexRow? b = some i) : wireByte? m i = some b := by
  unfold hexRow? at h
  split at h <;> first | (cases h; rename_i hb; exact congrArg some (BitVec.eq_of_toNat_eq hb).symm) | cases h

/-- The selectors of R55 and no others. -/
theorem selectorOf_isSome (b : Byte) :
    (selectorOf b).isSome = decide (b.toNat ∈ [0x01, 0x02, 0x03, 0x10, 0x11, 0x12, 0x13]) := by
  refine forall_byte (P := fun b =>
    (selectorOf b).isSome = decide (b.toNat ∈ [0x01, 0x02, 0x03, 0x10, 0x11, 0x12, 0x13])) ?_ b
  decide +kernel

@[simp] theorem selectorOf_code (op : Selector) : selectorOf op.code = some op := by cases op <;> rfl

/-- A selector is read from its own code only. -/
theorem selectorOf_eq_some {b : Byte} {op : Selector} : selectorOf b = some op ↔ b = op.code := by
  refine ⟨fun h => ?_, fun h => h ▸ selectorOf_code op⟩
  have hb : b = BitVec.ofNat 8 b.toNat := by simp
  unfold selectorOf at h
  split at h <;> first
    | (cases h; rename_i h1; rw [h1] at hb; exact hb)
    | cases h

/-- Splitting a 16-bit value into bytes and joining them again gives it back (R35). -/
theorem halfOfBytes_halfBytes (v : Half) : halfOfBytes (v.extractLsb' 8 8) (v.extractLsb' 0 8) = v := by
  unfold halfOfBytes
  ext i hi
  simp only [BitVec.getElem_append, BitVec.getElem_extractLsb']
  split
  · simp [BitVec.getLsbD_eq_getElem hi]
  · rw [show 8 + (i - 8) = i by omega, BitVec.getLsbD_eq_getElem hi]

theorem extract_high_halfOfBytes (hi lo : Byte) : (halfOfBytes hi lo).extractLsb' 8 8 = hi := by
  unfold halfOfBytes
  ext i h
  simp only [BitVec.getElem_extractLsb', BitVec.getLsbD_append]
  simp [h]

theorem extract_low_halfOfBytes (hi lo : Byte) : (halfOfBytes hi lo).extractLsb' 0 8 = lo := by
  unfold halfOfBytes
  ext i h
  simp only [BitVec.getElem_extractLsb', BitVec.getLsbD_append]
  simp [h]

/-- The number two bytes stand for, high byte first (R35). -/
theorem halfOfBytes_toNat (hi lo : Byte) : (halfOfBytes hi lo).toNat = hi.toNat * 256 + lo.toNat := by
  have h := lo.isLt
  simp only [halfOfBytes, BitVec.toNat_append]
  rw [← Nat.shiftLeft_add_eq_or_of_lt h, Nat.shiftLeft_eq]

theorem halfBytes_length (v : Half) : (halfBytes v).length = 2 := rfl
theorem wordBytes_length (v : Word) : (wordBytes v).length = 4 := rfl

end Sys2Proof
end

