-- ==== Sys2Proof/Laws/State.lean ====
section
/-! SUPPORT. One lemma per register per named update of an instance, and the updates of the machine: later proofs never unfold a
record update. -/

namespace Sys2Proof.Machine

open Sys2Proof

variable (l : Link)

/-! ### `Link.respond` -/

@[simp] theorem Link.respond_bound (r : Response) : (l.respond r).bound = l.bound := rfl
@[simp] theorem Link.respond_startByte (r : Response) : (l.respond r).startByte = l.startByte := rfl
@[simp] theorem Link.respond_fieldSeparator (r : Response) : (l.respond r).fieldSeparator = l.fieldSeparator := rfl
@[simp] theorem Link.respond_endByte (r : Response) : (l.respond r).endByte = l.endByte := rfl
@[simp] theorem Link.respond_rx (r : Response) : (l.respond r).rx = l.rx := rfl
@[simp] theorem Link.respond_tx (r : Response) : (l.respond r).tx = l.tx := rfl
@[simp] theorem Link.respond_phase (r : Response) : (l.respond r).phase = l.phase := rfl
@[simp] theorem Link.respond_fieldIndex (r : Response) : (l.respond r).fieldIndex = l.fieldIndex := rfl
@[simp] theorem Link.respond_acc (r : Response) : (l.respond r).acc = l.acc := rfl
@[simp] theorem Link.respond_currentCommand (r : Response) : (l.respond r).currentCommand = l.currentCommand := rfl
@[simp] theorem Link.respond_record (r : Response) : (l.respond r).record = l.record := rfl
@[simp] theorem Link.respond_status (r : Response) : (l.respond r).status = l.status := rfl
@[simp] theorem Link.respond_draws (r : Response) : (l.respond r).draws = l.draws := rfl
@[simp] theorem Link.respond_responses (r : Response) : (l.respond r).responses = l.responses ++ [r] := rfl
@[simp] theorem Link.respond_records (r : Response) : (l.respond r).records = l.records := rfl

/-! ### `Link.emit` -/

@[simp] theorem Link.emit_bound (r : RecordOut) : (l.emit r).bound = l.bound := rfl
@[simp] theorem Link.emit_startByte (r : RecordOut) : (l.emit r).startByte = l.startByte := rfl
@[simp] theorem Link.emit_fieldSeparator (r : RecordOut) : (l.emit r).fieldSeparator = l.fieldSeparator := rfl
@[simp] theorem Link.emit_endByte (r : RecordOut) : (l.emit r).endByte = l.endByte := rfl
@[simp] theorem Link.emit_rx (r : RecordOut) : (l.emit r).rx = l.rx := rfl
@[simp] theorem Link.emit_tx (r : RecordOut) : (l.emit r).tx = l.tx := rfl
@[simp] theorem Link.emit_phase (r : RecordOut) : (l.emit r).phase = l.phase := rfl
@[simp] theorem Link.emit_fieldIndex (r : RecordOut) : (l.emit r).fieldIndex = l.fieldIndex := rfl
@[simp] theorem Link.emit_acc (r : RecordOut) : (l.emit r).acc = l.acc := rfl
@[simp] theorem Link.emit_currentCommand (r : RecordOut) : (l.emit r).currentCommand = l.currentCommand := rfl
@[simp] theorem Link.emit_record (r : RecordOut) : (l.emit r).record = l.record := rfl
@[simp] theorem Link.emit_status (r : RecordOut) : (l.emit r).status = l.status := rfl
@[simp] theorem Link.emit_draws (r : RecordOut) : (l.emit r).draws = l.draws := rfl
@[simp] theorem Link.emit_responses (r : RecordOut) : (l.emit r).responses = l.responses := rfl
@[simp] theorem Link.emit_records (r : RecordOut) : (l.emit r).records = l.records ++ [r] := rfl

/-! ### `Link.foldRx` -/

@[simp] theorem Link.foldRx_bound (b : Byte) : (l.foldRx b).bound = l.bound := rfl
@[simp] theorem Link.foldRx_startByte (b : Byte) : (l.foldRx b).startByte = l.startByte := rfl
@[simp] theorem Link.foldRx_fieldSeparator (b : Byte) : (l.foldRx b).fieldSeparator = l.fieldSeparator := rfl
@[simp] theorem Link.foldRx_endByte (b : Byte) : (l.foldRx b).endByte = l.endByte := rfl
@[simp] theorem Link.foldRx_rx (b : Byte) : (l.foldRx b).rx = fold l.rx b := rfl
@[simp] theorem Link.foldRx_tx (b : Byte) : (l.foldRx b).tx = l.tx := rfl
@[simp] theorem Link.foldRx_phase (b : Byte) : (l.foldRx b).phase = l.phase := rfl
@[simp] theorem Link.foldRx_fieldIndex (b : Byte) : (l.foldRx b).fieldIndex = l.fieldIndex := rfl
@[simp] theorem Link.foldRx_acc (b : Byte) : (l.foldRx b).acc = l.acc := rfl
@[simp] theorem Link.foldRx_currentCommand (b : Byte) : (l.foldRx b).currentCommand = l.currentCommand := rfl
@[simp] theorem Link.foldRx_record (b : Byte) : (l.foldRx b).record = l.record := rfl
@[simp] theorem Link.foldRx_status (b : Byte) : (l.foldRx b).status = l.status := rfl
@[simp] theorem Link.foldRx_draws (b : Byte) : (l.foldRx b).draws = l.draws := rfl
@[simp] theorem Link.foldRx_responses (b : Byte) : (l.foldRx b).responses = l.responses := rfl
@[simp] theorem Link.foldRx_records (b : Byte) : (l.foldRx b).records = l.records := rfl

/-! ### `Link.accumulate` -/

@[simp] theorem Link.accumulate_bound (d : Nibble) : (l.accumulate d).bound = l.bound := rfl
@[simp] theorem Link.accumulate_startByte (d : Nibble) : (l.accumulate d).startByte = l.startByte := rfl
@[simp] theorem Link.accumulate_fieldSeparator (d : Nibble) : (l.accumulate d).fieldSeparator = l.fieldSeparator := rfl
@[simp] theorem Link.accumulate_endByte (d : Nibble) : (l.accumulate d).endByte = l.endByte := rfl
@[simp] theorem Link.accumulate_rx (d : Nibble) : (l.accumulate d).rx = l.rx := rfl
@[simp] theorem Link.accumulate_tx (d : Nibble) : (l.accumulate d).tx = l.tx := rfl
@[simp] theorem Link.accumulate_phase (d : Nibble) : (l.accumulate d).phase = l.phase := rfl
@[simp] theorem Link.accumulate_fieldIndex (d : Nibble) : (l.accumulate d).fieldIndex = l.fieldIndex := rfl
@[simp] theorem Link.accumulate_acc (d : Nibble) : (l.accumulate d).acc = l.acc * 16#32 + d.setWidth 32 := rfl
@[simp] theorem Link.accumulate_currentCommand (d : Nibble) : (l.accumulate d).currentCommand = l.currentCommand := rfl
@[simp] theorem Link.accumulate_record (d : Nibble) : (l.accumulate d).record = l.record := rfl
@[simp] theorem Link.accumulate_status (d : Nibble) : (l.accumulate d).status = l.status := rfl
@[simp] theorem Link.accumulate_draws (d : Nibble) : (l.accumulate d).draws = l.draws := rfl
@[simp] theorem Link.accumulate_responses (d : Nibble) : (l.accumulate d).responses = l.responses := rfl
@[simp] theorem Link.accumulate_records (d : Nibble) : (l.accumulate d).records = l.records := rfl

/-! ### `Link.clearAcc` -/

@[simp] theorem Link.clearAcc_bound : (l.clearAcc).bound = l.bound := rfl
@[simp] theorem Link.clearAcc_startByte : (l.clearAcc).startByte = l.startByte := rfl
@[simp] theorem Link.clearAcc_fieldSeparator : (l.clearAcc).fieldSeparator = l.fieldSeparator := rfl
@[simp] theorem Link.clearAcc_endByte : (l.clearAcc).endByte = l.endByte := rfl
@[simp] theorem Link.clearAcc_rx : (l.clearAcc).rx = l.rx := rfl
@[simp] theorem Link.clearAcc_tx : (l.clearAcc).tx = l.tx := rfl
@[simp] theorem Link.clearAcc_phase : (l.clearAcc).phase = l.phase := rfl
@[simp] theorem Link.clearAcc_fieldIndex : (l.clearAcc).fieldIndex = l.fieldIndex := rfl
@[simp] theorem Link.clearAcc_acc : (l.clearAcc).acc = 0 := rfl
@[simp] theorem Link.clearAcc_currentCommand : (l.clearAcc).currentCommand = l.currentCommand := rfl
@[simp] theorem Link.clearAcc_record : (l.clearAcc).record = l.record := rfl
@[simp] theorem Link.clearAcc_status : (l.clearAcc).status = l.status := rfl
@[simp] theorem Link.clearAcc_draws : (l.clearAcc).draws = l.draws := rfl
@[simp] theorem Link.clearAcc_responses : (l.clearAcc).responses = l.responses := rfl
@[simp] theorem Link.clearAcc_records : (l.clearAcc).records = l.records := rfl

/-! ### `Link.error` -/

@[simp] theorem Link.error_bound (st : Status) : (l.error st).bound = l.bound := rfl
@[simp] theorem Link.error_startByte (st : Status) : (l.error st).startByte = l.startByte := rfl
@[simp] theorem Link.error_fieldSeparator (st : Status) : (l.error st).fieldSeparator = l.fieldSeparator := rfl
@[simp] theorem Link.error_endByte (st : Status) : (l.error st).endByte = l.endByte := rfl
@[simp] theorem Link.error_rx (st : Status) : (l.error st).rx = l.rx := rfl
@[simp] theorem Link.error_tx (st : Status) : (l.error st).tx = l.tx := rfl
@[simp] theorem Link.error_phase (st : Status) : (l.error st).phase = Phase.idle := rfl
@[simp] theorem Link.error_fieldIndex (st : Status) : (l.error st).fieldIndex = l.fieldIndex := rfl
@[simp] theorem Link.error_acc (st : Status) : (l.error st).acc = l.acc := rfl
@[simp] theorem Link.error_currentCommand (st : Status) : (l.error st).currentCommand = l.currentCommand := rfl
@[simp] theorem Link.error_record (st : Status) : (l.error st).record = l.record := rfl
@[simp] theorem Link.error_status (st : Status) : (l.error st).status = st := rfl
@[simp] theorem Link.error_draws (st : Status) : (l.error st).draws = l.draws := rfl
@[simp] theorem Link.error_responses (st : Status) : (l.error st).responses = l.responses := rfl
@[simp] theorem Link.error_records (st : Status) : (l.error st).records = l.records := rfl

/-! ### `Link.reArm` -/

@[simp] theorem Link.reArm_bound : (l.reArm).bound = l.bound := rfl
@[simp] theorem Link.reArm_startByte : (l.reArm).startByte = l.startByte := rfl
@[simp] theorem Link.reArm_fieldSeparator : (l.reArm).fieldSeparator = l.fieldSeparator := rfl
@[simp] theorem Link.reArm_endByte : (l.reArm).endByte = l.endByte := rfl
@[simp] theorem Link.reArm_rx : (l.reArm).rx = some Config.crcInit := rfl
@[simp] theorem Link.reArm_tx : (l.reArm).tx = l.tx := rfl
@[simp] theorem Link.reArm_phase : (l.reArm).phase = Phase.readCommand := rfl
@[simp] theorem Link.reArm_fieldIndex : (l.reArm).fieldIndex = 0 := rfl
@[simp] theorem Link.reArm_acc : (l.reArm).acc = 0 := rfl
@[simp] theorem Link.reArm_currentCommand : (l.reArm).currentCommand = l.currentCommand := rfl
@[simp] theorem Link.reArm_record : (l.reArm).record = l.record := rfl
@[simp] theorem Link.reArm_status : (l.reArm).status = Status.inProgress := rfl
@[simp] theorem Link.reArm_draws : (l.reArm).draws = l.draws := rfl
@[simp] theorem Link.reArm_responses : (l.reArm).responses = l.responses := rfl
@[simp] theorem Link.reArm_records : (l.reArm).records = l.records := rfl

/-! ### `Link.created` -/

@[simp] theorem Link.created_bound (m : Markers) : (l.created m).bound = true := rfl
@[simp] theorem Link.created_startByte (m : Markers) : (l.created m).startByte = m.start := rfl
@[simp] theorem Link.created_fieldSeparator (m : Markers) : (l.created m).fieldSeparator = m.sep := rfl
@[simp] theorem Link.created_endByte (m : Markers) : (l.created m).endByte = m.fin := rfl
@[simp] theorem Link.created_rx (m : Markers) : (l.created m).rx = none := rfl
@[simp] theorem Link.created_tx (m : Markers) : (l.created m).tx = none := rfl
@[simp] theorem Link.created_phase (m : Markers) : (l.created m).phase = Phase.idle := rfl
@[simp] theorem Link.created_fieldIndex (m : Markers) : (l.created m).fieldIndex = 0 := rfl
@[simp] theorem Link.created_acc (m : Markers) : (l.created m).acc = 0 := rfl
@[simp] theorem Link.created_currentCommand (m : Markers) : (l.created m).currentCommand = l.currentCommand := rfl
@[simp] theorem Link.created_record (m : Markers) : (l.created m).record = l.record := rfl
@[simp] theorem Link.created_status (m : Markers) : (l.created m).status = Status.ok := rfl
@[simp] theorem Link.created_draws (m : Markers) : (l.created m).draws = l.draws := rfl
@[simp] theorem Link.created_responses (m : Markers) : (l.created m).responses = l.responses := rfl
@[simp] theorem Link.created_records (m : Markers) : (l.created m).records = l.records := rfl

/-! ### `Link.nextField` -/

@[simp] theorem Link.nextField_bound : (l.nextField).bound = l.bound := rfl
@[simp] theorem Link.nextField_startByte : (l.nextField).startByte = l.startByte := rfl
@[simp] theorem Link.nextField_fieldSeparator : (l.nextField).fieldSeparator = l.fieldSeparator := rfl
@[simp] theorem Link.nextField_endByte : (l.nextField).endByte = l.endByte := rfl
@[simp] theorem Link.nextField_rx : (l.nextField).rx = l.rx := rfl
@[simp] theorem Link.nextField_tx : (l.nextField).tx = l.tx := rfl
@[simp] theorem Link.nextField_phase : (l.nextField).phase = if (l.fieldIndex + 1).toNat = Config.payloadFields then Phase.validateChecksum else l.phase := rfl
@[simp] theorem Link.nextField_fieldIndex : (l.nextField).fieldIndex = l.fieldIndex + 1 := rfl
@[simp] theorem Link.nextField_acc : (l.nextField).acc = l.acc := rfl
@[simp] theorem Link.nextField_currentCommand : (l.nextField).currentCommand = l.currentCommand := rfl
@[simp] theorem Link.nextField_record : (l.nextField).record = l.record := rfl
@[simp] theorem Link.nextField_status : (l.nextField).status = l.status := rfl
@[simp] theorem Link.nextField_draws : (l.nextField).draws = l.draws := rfl
@[simp] theorem Link.nextField_responses : (l.nextField).responses = l.responses := rfl
@[simp] theorem Link.nextField_records : (l.nextField).records = l.records := rfl

/-! ### `Link.drawValue` -/

@[simp] theorem Link.drawValue_bound (k : Nat) : (l.drawValue k).bound = l.bound := rfl
@[simp] theorem Link.drawValue_startByte (k : Nat) : (l.drawValue k).startByte = l.startByte := rfl
@[simp] theorem Link.drawValue_fieldSeparator (k : Nat) : (l.drawValue k).fieldSeparator = l.fieldSeparator := rfl
@[simp] theorem Link.drawValue_endByte (k : Nat) : (l.drawValue k).endByte = l.endByte := rfl
@[simp] theorem Link.drawValue_rx (k : Nat) : (l.drawValue k).rx = l.rx := rfl
@[simp] theorem Link.drawValue_tx (k : Nat) : (l.drawValue k).tx = l.tx := rfl
@[simp] theorem Link.drawValue_phase (k : Nat) : (l.drawValue k).phase = l.phase := rfl
@[simp] theorem Link.drawValue_fieldIndex (k : Nat) : (l.drawValue k).fieldIndex = l.fieldIndex := rfl
@[simp] theorem Link.drawValue_acc (k : Nat) : (l.drawValue k).acc = l.acc := rfl
@[simp] theorem Link.drawValue_currentCommand (k : Nat) : (l.drawValue k).currentCommand = l.currentCommand := rfl
@[simp] theorem Link.drawValue_record (k : Nat) : (l.drawValue k).record = l.record := rfl
@[simp] theorem Link.drawValue_status (k : Nat) : (l.drawValue k).status = l.status := rfl
@[simp] theorem Link.drawValue_draws (k : Nat) : (l.drawValue k).draws = l.draws + 1 := rfl
@[simp] theorem Link.drawValue_responses (k : Nat) : (l.drawValue k).responses = l.responses ++ [Response.value Status.invalidInstance (Config.unboundCrcValue k l.draws)] := rfl
@[simp] theorem Link.drawValue_records (k : Nat) : (l.drawValue k).records = l.records := rfl

/-! ### Markers -/

@[simp] theorem Link.markers_start : l.markers.start = l.startByte := rfl
@[simp] theorem Link.markers_sep : l.markers.sep = l.fieldSeparator := rfl
@[simp] theorem Link.markers_fin : l.markers.fin = l.endByte := rfl

theorem Link.markers?_of_bound (h : l.bound = true) : l.markers? = some l.markers := by simp [Link.markers?, h]
theorem Link.markers?_of_unbound (h : l.bound = false) : l.markers? = none := by simp [Link.markers?, h]

/-! ### The machine -/

variable (s : State)

@[simp] theorem State.putLink_params : (s.putLink l).params = s.params := rfl
@[simp] theorem State.putLink_links : (s.putLink l).links = s.links.set s.sel l := rfl
@[simp] theorem State.putLink_sel : (s.putLink l).sel = s.sel := rfl
@[simp] theorem State.putLink_input : (s.putLink l).input = s.input := rfl

@[simp] theorem State.address_params (k : Nat) (q : List Input) : (s.address k q).params = s.params := rfl
@[simp] theorem State.address_links (k : Nat) (q : List Input) : (s.address k q).links = s.links := rfl
@[simp] theorem State.address_sel (k : Nat) (q : List Input) : (s.address k q).sel = k := rfl
@[simp] theorem State.address_input (k : Nat) (q : List Input) : (s.address k q).input = q := rfl

/-- Writing back what is there changes nothing. -/
theorem State.putLink_self (h : s.links[s.sel]? = some l) : s.putLink l = s := by
  obtain ⟨hlt, heq⟩ := List.getElem?_eq_some_iff.mp h
  simp [State.putLink, ← heq]

/-- The written instance reads as written. -/
theorem State.putLink_get (l' : Link) (h : s.links[s.sel]? = some l') : (s.putLink l).links[s.sel]? = some l := by
  obtain ⟨hlt, -⟩ := List.getElem?_eq_some_iff.mp h
  simp [hlt]

/-- A write to the addressed instance leaves everything outside it alone (R14, R40). -/
theorem State.putLink_outsideKept : State.OutsideKept s.sel s (s.putLink l) := by
  refine ⟨rfl, rfl, rfl, by simp, fun j hj => ?_⟩
  simp [List.getElem?_set_ne (Ne.symm hj)]

end Sys2Proof.Machine
end

