-- ==== Sys2Proof/Laws/Ops.lean ====
section
/-! SUPPORT. What the shared operations can do: an operation on the addressed instance, the bound split, the fold. -/

namespace Sys2Proof.Machine

open Sys2Proof

/-! ## `onLink` -/

@[simp] theorem State.putOutcome_next (s : State) (l : Link) : s.putOutcome (.next l) = .next (s.putLink l) := rfl
@[simp] theorem State.putOutcome_fault (s : State) (r : Fault) : s.putOutcome (.fault r) = .fault r := rfl
@[simp] theorem State.putOutcome_refused (s : State) (r : Refusal) : s.putOutcome (.refused r) = .refused r := rfl

/-- An operation on an instance that exists ends as its function on that instance ends. -/
theorem onLink_of_get {s : State} {l : Link} (h : s.links[s.sel]? = some l) (f : Link → LinkOutcome) :
    onLink s f = s.putOutcome (f l) := by
  simp [onLink, h]

/-- All an operation on the addressed instance can do when it completes. -/
theorem onLink_eq_next {s s' : State} {f : Link → LinkOutcome} :
    onLink s f = .next s' ↔ ∃ l l', s.links[s.sel]? = some l ∧ f l = .next l' ∧ s' = s.putLink l' := by
  unfold onLink
  cases h : s.links[s.sel]? with
  | none => simp
  | some l => cases hf : f l <;> simp [hf, eq_comm]

/-- When an operation on the addressed instance faults. -/
theorem onLink_eq_fault {s : State} {f : Link → LinkOutcome} {r : Fault} :
    onLink s f = .fault r ↔ ∃ l, s.links[s.sel]? = some l ∧ f l = .fault r := by
  unfold onLink
  cases h : s.links[s.sel]? with
  | none => simp
  | some l => cases hf : f l <;> simp [hf]

/-- When an operation on the addressed instance is refused. -/
theorem onLink_eq_refused {s : State} {f : Link → LinkOutcome} {r : Refusal} :
    onLink s f = .refused r ↔
      (s.links[s.sel]? = none ∧ r = .noSuchLink) ∨ ∃ l, s.links[s.sel]? = some l ∧ f l = .refused r := by
  unfold onLink
  cases h : s.links[s.sel]? with
  | none => simp [eq_comm]
  | some l => cases hf : f l <;> simp [hf]

/-! ## The bound split -/

@[simp] theorem Link.ifBound_of_bound {l : Link} (h : l.bound = true) (u b : LinkOutcome) : l.ifBound u b = b := by
  simp [Link.ifBound, h]

@[simp] theorem Link.ifBound_of_unbound {l : Link} (h : l.bound = false) (u b : LinkOutcome) : l.ifBound u b = u := by
  simp [Link.ifBound, h]

/-! ## The fold -/

@[simp] theorem fold_none (b : Byte) : fold none b = none := rfl
@[simp] theorem fold_some (v : Half) (b : Byte) : fold (some v) b = some (foldByte v b) := rfl
@[simp] theorem fold_eq_none {ctx : Option Half} {b : Byte} : fold ctx b = none ↔ ctx = none := by simp [fold]

@[simp] theorem crc_nil : crc [] = Config.crcInit := rfl

theorem crc_append_singleton (bytes : List Byte) (b : Byte) : crc (bytes ++ [b]) = foldByte (crc bytes) b := by
  simp [crc]

theorem crc_append (a b : List Byte) : crc (a ++ b) = b.foldl foldByte (crc a) := by simp [crc]

/-- A round is linear in its argument, as shift and exclusive or are. -/
theorem crcRound_xor (x y : Half) : crcRound (x ^^^ y) = crcRound x ^^^ crcRound y := by
  have cancel (p a b : Half) : a ^^^ b = p ^^^ (p ^^^ (a ^^^ b)) := by
    rw [← BitVec.xor_assoc p p, BitVec.xor_self, BitVec.zero_xor]
  unfold crcRound
  cases hx : x.getLsbD 15 <;> cases hy : y.getLsbD 15 <;>
    simp only [BitVec.getLsbD_xor, hx, hy, BitVec.shiftLeft_xor_distrib, Bool.xor_false, Bool.false_xor, Bool.xor_self,
      Bool.false_eq_true, if_true, if_false] <;>
    first | ac_rfl | (rw [cancel Config.crcPoly]; ac_rfl)

/-- Any number of rounds is linear. -/
theorem crcRounds_xor (n : Nat) (x y : Half) : crcRounds n (x ^^^ y) = crcRounds n x ^^^ crcRounds n y := by
  induction n generalizing x y with
  | zero => rfl
  | succ n ih => simp [crcRounds, crcRound_xor, ih]

end Sys2Proof.Machine
end

