-- ==== Sys2Proof/Laws/Dispatch.lean ====
section
/-! SUPPORT. What an instruction can do at all: it is a function on the addressed instance alone. -/

namespace Sys2Proof.Machine

open Sys2Proof

/-- What an instruction does to its instance, given the parameters and the instance's number. -/
def onInstance (i : Instr) (p : Params) (k : Nat) (l : Link) : LinkOutcome :=
  match i with
  | .create s u e => l.create ⟨s, u, e⟩
  | .rxByte b => l.rxByte p b
  | .lastError => l.lastError
  | .crcReset => l.crcReset
  | .crcUpdate b => l.crcUpdate b
  | .crcValue => l.crcValue k
  | .frame cap payload => l.sendFrame cap payload
  | .startMark => l.wire p .start l.startByte
  | .sepMark => l.wire p .sep l.fieldSeparator
  | .endMark => l.wire p .fin l.endByte
  | .hex0 => l.wire p (.hex 0#4) 0x30#8
  | .hex1 => l.wire p (.hex 1#4) 0x31#8
  | .hex2 => l.wire p (.hex 2#4) 0x32#8
  | .hex3 => l.wire p (.hex 3#4) 0x33#8
  | .hex4 => l.wire p (.hex 4#4) 0x34#8
  | .hex5 => l.wire p (.hex 5#4) 0x35#8
  | .hex6 => l.wire p (.hex 6#4) 0x36#8
  | .hex7 => l.wire p (.hex 7#4) 0x37#8
  | .hex8 => l.wire p (.hex 8#4) 0x38#8
  | .hex9 => l.wire p (.hex 9#4) 0x39#8
  | .hexUpperA => l.wire p (.hex 10#4) 0x41#8
  | .hexUpperB => l.wire p (.hex 11#4) 0x42#8
  | .hexUpperC => l.wire p (.hex 12#4) 0x43#8
  | .hexUpperD => l.wire p (.hex 13#4) 0x44#8
  | .hexUpperE => l.wire p (.hex 14#4) 0x45#8
  | .hexUpperF => l.wire p (.hex 15#4) 0x46#8
  | .hexLowerA => l.wire p (.hex 10#4) 0x61#8
  | .hexLowerB => l.wire p (.hex 11#4) 0x62#8
  | .hexLowerC => l.wire p (.hex 12#4) 0x63#8
  | .hexLowerD => l.wire p (.hex 13#4) 0x64#8
  | .hexLowerE => l.wire p (.hex 14#4) 0x65#8
  | .hexLowerF => l.wire p (.hex 15#4) 0x66#8
  | .other b => l.wire p .other b

/-- Every meaning is its action on the addressed instance (R9, R14): it reads the parameters, the instance's number and the
instance, and nothing else. -/
theorem exec_eq_onLink (i : Instr) (s : State) : exec i s = onLink s (onInstance i s.params s.sel) := by
  cases i <;> rfl

/-- An instruction on an instance that exists. -/
theorem exec_of_get {s : State} {l : Link} (h : s.links[s.sel]? = some l) (i : Instr) :
    exec i s = s.putOutcome (onInstance i s.params s.sel l) := by
  rw [exec_eq_onLink, onLink_of_get h]

/-- A completed instruction rewrote the addressed instance and nothing else. -/
theorem exec_next {i : Instr} {s s' : State} (h : exec i s = .next s') :
    ∃ l l', s.links[s.sel]? = some l ∧ onInstance i s.params s.sel l = .next l' ∧ s' = s.putLink l' :=
  onLink_eq_next.mp (exec_eq_onLink i s ▸ h)

/-- A completed instruction leaves everything outside the addressed instance alone. -/
theorem exec_outsideKept {i : Instr} {s s' : State} (h : exec i s = .next s') : State.OutsideKept s.sel s s' := by
  obtain ⟨l, l', -, -, rfl⟩ := exec_next h
  exact State.putLink_outsideKept l' s

end Sys2Proof.Machine
end

