-- ==== Sys2Proof/Laws/Parser.lean ====
section
/-! SUPPORT. What a received byte can do: when it faults, what it never touches, and that a byte's row on the wire and RX_BYTE
are one thing. -/

namespace Sys2Proof.Machine

open Sys2Proof

/-! ## A byte on an instance -/

/-- A received byte faults in one place only: the comparison at `end_byte` against a receive context of `⊥` (R9, R89). -/
theorem Link.receive_eq_fault {l : Link} {p : Params} {c : ByteClass} {b : Byte} {r : Fault} :
    l.receive p c b = .fault r ↔ c = .fin ∧ l.phase = .validateChecksum ∧ l.rx = none ∧ r = .undefinedRead := by
  cases c <;> simp [Link.receive]
  unfold Link.onEnd
  cases hp : l.phase <;> cases hx : l.rx <;> simp [eq_comm]

/-- A received byte is never refused (R76). -/
theorem Link.receive_ne_refused {l : Link} {p : Params} {c : ByteClass} {b : Byte} {r : Refusal} :
    l.receive p c b ≠ .refused r := by
  cases c <;> simp [Link.receive]
  unfold Link.onEnd
  cases l.phase <;> cases l.rx <;> simp

/-- A commit or an error step touches neither the configuration nor the engine's side. -/
theorem Link.onSep_frame (l : Link) (p : Params) (b : Byte) :
    l.SameConfig (l.onSep p b) ∧ l.SameEngine (l.onSep p b) ∧ (l.onSep p b).records = l.records := by
  unfold Link.onSep Link.selectCommand Link.commitMotor Link.commitPid
  cases l.phase <;> simp only <;> (repeat' split) <;> simp [Link.SameConfig, Link.SameEngine]

theorem Link.onHex_frame (l : Link) (b : Byte) (d : Nibble) :
    l.SameConfig (l.onHex b d) ∧ l.SameEngine (l.onHex b d) ∧ (l.onHex b d).records = l.records := by
  unfold Link.onHex
  cases l.phase <;> simp [Link.SameConfig, Link.SameEngine]

theorem Link.onOther_frame (l : Link) :
    l.SameConfig l.onOther ∧ l.SameEngine l.onOther ∧ l.onOther.records = l.records := by
  unfold Link.onOther
  cases l.phase <;> simp [Link.SameConfig, Link.SameEngine]

theorem Link.endFrame_frame (l : Link) (c : Half) : l.SameConfig (l.endFrame c) ∧ l.SameEngine (l.endFrame c) := by
  unfold Link.endFrame
  cases checksumMatches l.acc c <;> simp [Link.SameConfig, Link.SameEngine]

/-- A received byte touches neither the configuration (R19) nor the transmit context nor the operation port (R61). -/
theorem Link.receive_frame {l l' : Link} {p : Params} {c : ByteClass} {b : Byte} (h : l.receive p c b = .next l') :
    l.SameConfig l' ∧ l.SameEngine l' := by
  cases c with
  | start => cases h; simp [Link.SameConfig, Link.SameEngine]
  | sep => cases h; exact ⟨(l.onSep_frame p b).1, (l.onSep_frame p b).2.1⟩
  | hex d => cases h; exact ⟨(l.onHex_frame b d).1, (l.onHex_frame b d).2.1⟩
  | other => cases h; exact ⟨l.onOther_frame.1, l.onOther_frame.2.1⟩
  | fin =>
    simp only [Link.receive] at h
    unfold Link.onEnd at h
    split at h
    · cases h; simp [Link.SameConfig, Link.SameEngine]
    · cases h; simp [Link.SameConfig, Link.SameEngine]
    · cases h; simp [Link.SameConfig, Link.SameEngine]
    · cases h; simp [Link.SameConfig, Link.SameEngine]
    · split at h
      · cases h; exact l.endFrame_frame _
      · cases h

/-- On a bound instance a byte does what its class does; on an unbound one it is dropped (R99). -/
theorem Link.wire_of_bound {l : Link} (h : l.bound = true) (p : Params) (c : ByteClass) (b : Byte) :
    l.wire p c b = l.receive p c b := by simp [Link.wire, h]

theorem Link.wire_of_unbound {l : Link} (h : l.bound = false) (p : Params) (c : ByteClass) (b : Byte) :
    l.wire p c b = .next l := by simp [Link.wire, h]

/-! ## A wire row is RX_BYTE of its byte -/

/-- A hex digit's row does what a HEX byte of that value does. -/
theorem onInstance_hexRow? {b : Byte} {i : Instr} (h : hexRow? b = some i) :
    ∃ d, hexVal? b = some d ∧ ∀ p k l, onInstance i p k l = l.wire p (.hex d) b := by
  unfold hexRow? at h
  split at h <;> first
    | (cases h; rename_i hb
       have hb' : b = BitVec.ofNat 8 b.toNat := by simp
       rw [hb] at hb'; subst hb'
       exact ⟨_, rfl, fun _ _ _ => rfl⟩)
    | cases h

/-- The row a byte is read as does what RX_BYTE of the byte does. -/
theorem onInstance_decodeWire (l : Link) (p : Params) (k : Nat) (b : Byte) :
    onInstance (decodeWire l.markers? b) p k l = l.rxByte p b := by
  have plain (m : Option Markers) (hm : decodeWire m b = (hexRow? b).getD (.other b)) (c : ByteClass)
      (hc : c = (hexVal? b).elim .other .hex) :
      onInstance (decodeWire m b) p k l = l.wire p c b := by
    rw [hm, hc]
    cases hr : hexRow? b with
    | some i =>
      obtain ⟨d, hd, hi⟩ := onInstance_hexRow? hr
      simp [hd, hi]
    | none =>
      have : isHex b = false := by rw [← hexRow?_isSome, hr]; rfl
      simp [hexVal?_of_not_isHex this, onInstance]
  cases hb : l.bound with
  | false =>
    rw [Link.markers?_of_unbound l hb, plain none rfl _ rfl, Link.rxByte, Link.wire_of_unbound hb, Link.wire_of_unbound hb]
  | true =>
    rw [Link.markers?_of_bound l hb, Link.rxByte]
    by_cases h1 : b = l.startByte
    · subst h1; simp [decodeWire, classify, onInstance]
    by_cases h2 : b = l.fieldSeparator
    · subst h2; simp [decodeWire, classify, h1, onInstance]
    by_cases h3 : b = l.endByte
    · subst h3; simp [decodeWire, classify, h1, h2, onInstance]
    refine plain _ (by simp [decodeWire, h1, h2, h3]) _ ?_
    simp only [classify, Link.markers_start, Link.markers_sep, Link.markers_fin, h1, h2, h3, if_false]
    cases hexVal? b <;> rfl

end Sys2Proof.Machine
end

