-- ==== Sys2Proof/Laws/PerInstr.lean ====
section
/-! SUPPORT. Per instruction: the shape of its bytes, a selector of R55 and its operands for a host operation, one byte for a wire
row (R51). -/

namespace Sys2Proof.Laws.EncodedShape

open Sys2Proof

/-- A host operation's bytes begin with a selector of R55; a wire row has the one byte it stands for. -/
def Statement (i : Instr) : Prop :=
  ∀ m : Markers, match i.format with
    | .hostOp => ∃ sel operands, encode m i = sel :: operands ∧ (selectorOf sel).isSome = true
    | .wireByte => ∃ b, encode m i = [b] ∧ wireByte? m i = some b

theorem create (s u e : Byte) : Statement (.create s u e) := fun _ => ⟨_, _, rfl, rfl⟩
theorem rxByte (b : Byte) : Statement (.rxByte b) := fun _ => ⟨_, _, rfl, rfl⟩
theorem lastError : Statement .lastError := fun _ => ⟨_, _, rfl, rfl⟩
theorem crcReset : Statement .crcReset := fun _ => ⟨_, _, rfl, rfl⟩
theorem crcUpdate (b : Byte) : Statement (.crcUpdate b) := fun _ => ⟨_, _, rfl, rfl⟩
theorem crcValue : Statement .crcValue := fun _ => ⟨_, _, rfl, rfl⟩
theorem frame (cap : Half) (payload : List Byte) : Statement (.frame cap payload) := fun _ => ⟨_, _, rfl, rfl⟩
theorem startMark : Statement .startMark := fun _ => ⟨_, rfl, rfl⟩
theorem sepMark : Statement .sepMark := fun _ => ⟨_, rfl, rfl⟩
theorem endMark : Statement .endMark := fun _ => ⟨_, rfl, rfl⟩
theorem hex0 : Statement .hex0 := fun _ => ⟨_, rfl, rfl⟩
theorem hex1 : Statement .hex1 := fun _ => ⟨_, rfl, rfl⟩
theorem hex2 : Statement .hex2 := fun _ => ⟨_, rfl, rfl⟩
theorem hex3 : Statement .hex3 := fun _ => ⟨_, rfl, rfl⟩
theorem hex4 : Statement .hex4 := fun _ => ⟨_, rfl, rfl⟩
theorem hex5 : Statement .hex5 := fun _ => ⟨_, rfl, rfl⟩
theorem hex6 : Statement .hex6 := fun _ => ⟨_, rfl, rfl⟩
theorem hex7 : Statement .hex7 := fun _ => ⟨_, rfl, rfl⟩
theorem hex8 : Statement .hex8 := fun _ => ⟨_, rfl, rfl⟩
theorem hex9 : Statement .hex9 := fun _ => ⟨_, rfl, rfl⟩
theorem hexUpperA : Statement .hexUpperA := fun _ => ⟨_, rfl, rfl⟩
theorem hexUpperB : Statement .hexUpperB := fun _ => ⟨_, rfl, rfl⟩
theorem hexUpperC : Statement .hexUpperC := fun _ => ⟨_, rfl, rfl⟩
theorem hexUpperD : Statement .hexUpperD := fun _ => ⟨_, rfl, rfl⟩
theorem hexUpperE : Statement .hexUpperE := fun _ => ⟨_, rfl, rfl⟩
theorem hexUpperF : Statement .hexUpperF := fun _ => ⟨_, rfl, rfl⟩
theorem hexLowerA : Statement .hexLowerA := fun _ => ⟨_, rfl, rfl⟩
theorem hexLowerB : Statement .hexLowerB := fun _ => ⟨_, rfl, rfl⟩
theorem hexLowerC : Statement .hexLowerC := fun _ => ⟨_, rfl, rfl⟩
theorem hexLowerD : Statement .hexLowerD := fun _ => ⟨_, rfl, rfl⟩
theorem hexLowerE : Statement .hexLowerE := fun _ => ⟨_, rfl, rfl⟩
theorem hexLowerF : Statement .hexLowerF := fun _ => ⟨_, rfl, rfl⟩
theorem other (b : Byte) : Statement (.other b) := fun _ => ⟨_, rfl, rfl⟩

end Sys2Proof.Laws.EncodedShape
end

