-- ==== Sys2Proof/Laws/Step.lean ====
section
/-! SUPPORT. What a step can do, and what a run over received bytes is: the parser fed with them one by one (R102). -/

namespace Sys2Proof.Machine

open Sys2Proof

/-! ## What is waiting -/

@[simp] theorem waiting_nil : waiting [] = [] := rfl

@[simp] theorem waiting_op_nil (k : Nat) (q : List Input) : waiting (.op k [] :: q) = waiting q := rfl

@[simp] theorem waiting_op_cons (k : Nat) (b : Byte) (bs : List Byte) (q : List Input) :
    waiting (.op k (b :: bs) :: q) = .op k (b :: bs) :: waiting q := rfl

@[simp] theorem waiting_wire_nil (k : Nat) (q : List Input) : waiting (.wire k [] :: q) = waiting q := rfl

@[simp] theorem waiting_wire_cons (k : Nat) (b : Byte) (bs : List Byte) (q : List Input) :
    waiting (.wire k (b :: bs) :: q) = .wire k (b :: bs) :: waiting q := rfl

theorem waiting_append (p q : List Input) : waiting (p ++ q) = waiting p ++ waiting q := List.filter_append ..

@[simp] theorem waiting_waiting (q : List Input) : waiting (waiting q) = waiting q := by simp [waiting]

@[simp] theorem waiting_cons_waiting (x : Input) (q : List Input) : waiting (x :: waiting q) = waiting (x :: q) := by
  simp [waiting, List.filter_cons]

theorem waiting_cons_of_spent {x : Input} (h : x.spent = true) (q : List Input) : waiting (x :: q) = waiting q := by
  simp [waiting, h]

theorem waiting_cons_of_not_spent {x : Input} (h : x.spent = false) (q : List Input) :
    waiting (x :: q) = x :: waiting q := by simp [waiting, h]

/-! ## One operation -/

/-- An input that still holds a byte is refused, or begins with an instruction; the instance then exists. -/
theorem fetch_cases (s : State) {x : Input} (h : x.spent = false) :
    (∃ r, fetch s x = .refused r) ∨
    ∃ i more l, fetch s x = .instr i more ∧ more.link = x.link ∧ s.links[x.link]? = some l := by
  match x with
  | .op _ [] => cases h
  | .wire _ [] => cases h
  | .op k (b :: bytes) =>
    simp only [fetch, Input.link]
    cases hl : s.links[k]? with
    | none => exact .inl ⟨_, rfl⟩
    | some l =>
      cases hd : decodeOp (b :: bytes) with
      | error e => exact .inl ⟨_, rfl⟩
      | ok d => exact .inr ⟨d.1, .op k d.2, l, rfl, rfl, rfl⟩
  | .wire k (b :: more) =>
    simp only [fetch, Input.link]
    cases hl : s.links[k]? with
    | none => exact .inl ⟨_, rfl⟩
    | some l => exact .inr ⟨_, _, l, rfl, rfl, rfl⟩

/-- An instruction's outcome, whatever waits around it, is its outcome on its instance. -/
theorem attempt_of_instr {s : State} {x more : Input} {i : Instr} {l : Link} (hf : fetch s x = .instr i more)
    (hl : s.links[x.link]? = some l) (before after : List Input) :
    attempt s x before after =
      (s.address x.link (waiting (before ++ more :: after))).putOutcome (onInstance i s.params x.link l) := by
  simp only [attempt, hf]
  rw [exec_of_get (s := s.address x.link _) hl]
  rfl

theorem attempt_of_refused {s : State} {x : Input} {r : Refusal} (hf : fetch s x = .refused r) (before after : List Input) :
    attempt s x before after = .refused r := by simp [attempt, hf]

/-- How an operation ends does not depend on what waits around it: it stops alike, or it leaves the same instances. -/
theorem attempt_cases (s : State) {x : Input} (h : x.spent = false) :
    (∃ st : Stop, ∀ before after, attempt s x before after = st.outcome) ∨
    ∃ i more l l', more.link = x.link ∧ s.links[x.link]? = some l ∧ onInstance i s.params x.link l = .next l' ∧
      ∀ before after, attempt s x before after = exec i (s.address x.link (waiting (before ++ more :: after))) ∧
        attempt s x before after = .next ((s.address x.link (waiting (before ++ more :: after))).putLink l') := by
  obtain ⟨r, hf⟩ | ⟨i, more, l, hf, hm, hl⟩ := fetch_cases s h
  · exact .inl ⟨.refused r, attempt_of_refused hf⟩
  · cases ho : onInstance i s.params x.link l with
    | fault r => exact .inl ⟨.fault r, fun b a => by rw [attempt_of_instr hf hl, ho]; rfl⟩
    | refused r => exact .inl ⟨.refused r, fun b a => by rw [attempt_of_instr hf hl, ho]; rfl⟩
    | next l' =>
      exact .inr ⟨i, more, l, l', hm, hl, ho, fun b a => ⟨by simp only [attempt, hf],
        by rw [attempt_of_instr hf hl, ho]; rfl⟩⟩

/-! ## The schedule -/

theorem isStopped_cons (st : Nat × Stop) (stops : List (Nat × Stop)) (k : Nat) :
    isStopped (st :: stops) k = (st.1 == k || isStopped stops k) := rfl

/-- An operation that completes is the one the schedule runs. -/
theorem schedule_cons_of_next {s t : State} {before after : List Input} {stops : List (Nat × Stop)} {x : Input}
    (hs : isStopped stops x.link = false) (h : attempt s x before after = .next t) :
    schedule s before stops (x :: after) = .next t := by
  simp [schedule, hs, h]

/-- An operation that stops is passed over, and its instance is stopped. -/
theorem schedule_cons_of_stop {s : State} {before after : List Input} {stops : List (Nat × Stop)} {x : Input} {st : Stop}
    (hs : isStopped stops x.link = false) (h : attempt s x before after = st.outcome) :
    schedule s before stops (x :: after) = schedule s (before ++ [x]) ((x.link, st) :: stops) after := by
  cases st <;> simp [schedule, hs, h, Stop.outcome]

theorem schedule_cons_of_stopped {s : State} {before after : List Input} {stops : List (Nat × Stop)} {x : Input}
    (hs : isStopped stops x.link = true) :
    schedule s before stops (x :: after) = schedule s (before ++ [x]) stops after := by
  simp [schedule, hs]

/-- With stopped instances alone nothing runs. -/
theorem schedule_of_all_stopped {s : State} {stops : List (Nat × Stop)} (q before : List Input)
    (h : ∀ x ∈ q, isStopped stops x.link = true) : schedule s before stops q = s.settle stops := by
  induction q generalizing before with
  | nil => rfl
  | cons x q ih =>
    rw [schedule_cons_of_stopped (h x (by simp)), ih _ fun y hy => h y (by simp [hy])]

theorem lowest_cons_ne_none (st : Nat × Stop) (stops : List (Nat × Stop)) : lowest (st :: stops) ≠ none := by
  unfold lowest
  split
  · simp
  · split <;> simp

@[simp] theorem Stop.outcome_ne_next (st : Stop) (t : State) : st.outcome ≠ .next t := by cases st <;> simp [Stop.outcome]

/-- Once an instance has stopped, settling is no completion. -/
theorem settle_ne_next {s t : State} {stops : List (Nat × Stop)} (h : stops ≠ []) : s.settle stops ≠ .next t := by
  cases stops with
  | nil => exact absurd rfl h
  | cons st rest =>
    unfold State.settle
    split
    · rename_i hl
      exact absurd hl (lowest_cons_ne_none st rest)
    · exact Stop.outcome_ne_next _ t

/-- All a schedule can do when it completes: hold, or run the first operation of one of its inputs, whose instance had not
stopped. -/
theorem schedule_next {s t : State} {stops : List (Nat × Stop)} {q before : List Input}
    (h : schedule s before stops q = .next t) :
    (t = s ∧ stops = []) ∨
    ∃ pre x after, q = pre ++ x :: after ∧ isStopped stops x.link = false ∧ attempt s x (before ++ pre) after = .next t := by
  induction q generalizing before stops with
  | nil =>
    cases stops with
    | nil => cases h; exact .inl ⟨rfl, rfl⟩
    | cons st rest => exact absurd h (settle_ne_next (by simp))
  | cons x q ih =>
    by_cases hs : isStopped stops x.link = true
    · rw [schedule_cons_of_stopped hs] at h
      obtain ⟨rfl, rfl⟩ | ⟨pre, y, after, rfl, hy, ha⟩ := ih h
      · cases hs
      · exact .inr ⟨x :: pre, y, after, rfl, hy, by simpa using ha⟩
    · rw [Bool.not_eq_true] at hs
      have go (st : Stop) (ha : attempt s x before q = st.outcome) :
          ∃ pre y after, x :: q = pre ++ y :: after ∧ isStopped stops y.link = false ∧
            attempt s y (before ++ pre) after = .next t := by
        rw [schedule_cons_of_stop hs ha] at h
        obtain ⟨-, h0⟩ | ⟨pre, y, after, rfl, hy, ha⟩ := ih h
        · cases h0
        · rw [isStopped_cons, Bool.or_eq_false_iff] at hy
          exact ⟨x :: pre, y, after, rfl, hy.2, by simpa using ha⟩
      cases ha : attempt s x before q with
      | next t' =>
        rw [schedule_cons_of_next hs ha] at h
        cases h
        exact .inr ⟨[], x, q, rfl, hs, by simpa using ha⟩
      | fault r => exact .inr (go (.fault r) ha)
      | refused r => exact .inr (go (.refused r) ha)

/-! ## One step -/

/-- An operation at the front that completes is the step. -/
theorem step_of_head {s t : State} {x : Input} {rest : List Input} (hi : s.input = x :: rest) (hx : x.spent = false)
    (h : attempt s x [] (waiting rest) = .next t) : step s = .next t := by
  rw [step, hi, waiting_cons_of_not_spent hx]
  exact schedule_cons_of_next rfl h

/-- Where one instance alone has operations waiting, a step ends as its first operation ends. -/
theorem step_of_only {s : State} {x : Input} {rest : List Input} (hi : s.input = x :: rest) (hx : x.spent = false)
    (h : ∀ y ∈ rest, y.link = x.link) : step s = attempt s x [] (waiting rest) := by
  rw [step, hi, waiting_cons_of_not_spent hx]
  have only (st : Stop) (ha : attempt s x [] (waiting rest) = st.outcome) :
      schedule s [] [] (x :: waiting rest) = st.outcome := by
    rw [schedule_cons_of_stop rfl ha, schedule_of_all_stopped]
    · rfl
    · intro y hy
      rw [isStopped_cons, h y (List.mem_of_mem_filter hy)]
      simp
  cases ha : attempt s x [] (waiting rest) with
  | next t => exact schedule_cons_of_next rfl ha
  | fault r => exact only (.fault r) ha
  | refused r => exact only (.refused r) ha

/-- All a step can do when it completes: hold, or run one instruction on one instance. -/
theorem step_next {s s' : State} (h : step s = .next s') :
    s' = s ∨ ∃ k q i l l', s.links[k]? = some l ∧ onInstance i s.params k l = .next l' ∧
      exec i (s.address k q) = .next s' ∧ s' = (s.address k q).putLink l' := by
  obtain ⟨rfl, -⟩ | ⟨pre, x, after, hq, -, ha⟩ := schedule_next h
  · exact .inl rfl
  · have hx : x.spent = false := by
      have : x ∈ waiting s.input := by rw [hq]; simp
      simpa [waiting] using (List.mem_filter.mp this).2
    obtain ⟨st, hst⟩ | ⟨i, more, l, l', -, hl, ho, hn⟩ := attempt_cases s hx
    · rw [hst] at ha
      cases st <;> cases ha
    · obtain ⟨he, hn⟩ := hn ([] ++ pre) after
      rw [hn] at ha
      cases ha
      exact .inr ⟨_, _, i, l, l', hl, ho, he.symm.trans hn, rfl⟩

/-- Every instance after a completed step was there before it, changed by at most one instruction. -/
theorem step_next_link {s s' : State} (h : step s = .next s') {j : Nat} {l' : Link} (hj : s'.links[j]? = some l') :
    s.links[j]? = some l' ∨ ∃ i l, s.links[j]? = some l ∧ onInstance i s.params j l = .next l' := by
  obtain rfl | ⟨k, q, i, l, m, hl, hi, -, rfl⟩ := step_next h
  · exact .inl hj
  · by_cases hjk : j = k
    · subst hjk
      have := State.putLink_get m (s.address j q) l hl
      simp only [State.address_sel] at this
      rw [this] at hj
      cases hj
      exact .inr ⟨i, l, hl, hi⟩
    · rw [(State.putLink_outsideKept m (s.address k q)).2.2.2.2 j hjk] at hj
      exact .inl hj

/-- Parameters never change. -/
theorem step_next_params {s s' : State} (h : step s = .next s') : s'.params = s.params := by
  obtain rfl | ⟨k, q, i, l, m, hl, hi, -, rfl⟩ := step_next h <;> rfl

/-! ## The parser fed with a byte string -/

/-- A byte string given to an instance, byte by byte (R102). -/
def Link.feed (p : Params) : Link → List Byte → LinkOutcome
  | l, [] => .next l
  | l, b :: bs =>
    match l.rxByte p b with
    | .next l' => l'.feed p bs
    | o => o

@[simp] theorem Link.feed_nil (p : Params) (l : Link) : l.feed p [] = .next l := rfl

theorem Link.feed_cons_of_next {p : Params} {l l' : Link} {b : Byte} (h : l.rxByte p b = .next l') (bs : List Byte) :
    l.feed p (b :: bs) = l'.feed p bs := by
  simp [Link.feed, h]

theorem Link.feed_append_of_next {p : Params} {l l' : Link} {a : List Byte} (h : l.feed p a = .next l') (bs : List Byte) :
    l.feed p (a ++ bs) = l'.feed p bs := by
  induction a generalizing l with
  | nil => cases h; rfl
  | cons b a ih =>
    simp only [Link.feed] at h
    split at h
    · rename_i l1 h1
      rw [List.cons_append, Link.feed_cons_of_next h1, ih h]
    · rename_i hne
      exact absurd h (hne l')

/-- One step over a received byte. -/
theorem step_wire {s : State} {k : Nat} {l l' : Link} {b : Byte} {more : List Byte} {rest : List Input}
    (hi : s.input = .wire k (b :: more) :: rest) (hl : s.links[k]? = some l) (h : l.rxByte s.params b = .next l') :
    step s = .next ((s.address k (waiting (.wire k more :: rest))).putLink l') := by
  refine step_of_head hi rfl ?_
  have hf : fetch s (.wire k (b :: more)) = .instr (decodeWire l.markers? b) (.wire k more) := by simp [fetch, hl]
  rw [attempt_of_instr hf hl, onInstance_decodeWire, Input.link, h]
  simp

@[simp] theorem run_zero (s : State) : run 0 s = .next s := rfl

/-- A run whose first step completes. -/
theorem run_of_next {s s' : State} (h : step s = .next s') (n : Nat) : run (n + 1) s = run n s' := by simp [run, h]

/-- As many steps as there are received bytes feed them all to their instance and leave the other inputs waiting. -/
theorem run_wire {k : Nat} {rest : List Input} (bytes : List Byte) (hne : bytes ≠ []) {s : State} {l l' : Link}
    (hi : s.input = .wire k bytes :: rest) (hl : s.links[k]? = some l) (h : l.feed s.params bytes = .next l') :
    run bytes.length s = .next ((s.address k (waiting rest)).putLink l') := by
  induction bytes generalizing s l rest with
  | nil => exact absurd rfl hne
  | cons b more ih =>
    simp only [Link.feed] at h
    split at h
    · rename_i l1 ho
      rw [List.length_cons, run_of_next (step_wire hi hl ho)]
      have hlen : k < s.links.length := (List.getElem?_eq_some_iff.mp hl).1
      cases more with
      | nil => cases h; rfl
      | cons c more =>
        refine (ih (rest := waiting rest) (by simp) (s := (s.address k _).putLink l1) (l := l1) (by simp)
          (by simp [hlen]) h).trans ?_
        simp [State.putLink, State.address, List.set_set]
    · rename_i hn
      exact absurd h (hn l')

end Sys2Proof.Machine
end

