-- ==== Sys2Proof/Tests/Slice0.lean ====
section
/-! SUPPORT. The model's own tests: what WellFormed and the decoder refuse, words written out from the spec's tables, single steps
with the results of 95_test_vectors.md, the host's two entry points, and for each obligation with hypotheses a concrete state and
operands that meet them. -/

namespace Sys2Proof.Tests

open Sys2Proof Sys2Proof.Machine

/-! ## Helpers -/

/-- An instance just created with the default markers (95_test_vectors.md, Conventions). -/
abbrev fresh : Link := Link.reset.created Markers.default

/-- The instance in a reading phase, with a receive CRC, a field index and an accumulator. -/
abbrev reading (ph : Phase) (rx : Half) (k : BitVec 8) (acc : Word) : Link :=
  { fresh with phase := ph, rx := some rx, fieldIndex := k, acc := acc, status := .inProgress }

/-- The instance in `ReadMotorValues`. -/
abbrev motorAt (k : BitVec 8) (acc : Word) : Link :=
  { reading .readMotorValues 0x607C#16 k acc with record := .motorValues 10#8 0#8 0#8 0#8 }

/-- The instance in `ReadPidAngle`. -/
abbrev pidAt (k : BitVec 8) (acc : Word) : Link :=
  { reading .readPidAngle 0x1234#16 k acc with currentCommand := .pid, record := .pidAngle 1#8 0#32 0#32 0#32 }

/-- The instance in `ValidateChecksum`, all four motor fields read. -/
abbrev checking (rx : Half) (acc : Word) : Link :=
  { reading .validateChecksum rx 4#8 acc with record := .motorValues 10#8 20#8 30#8 40#8 }

/-- A machine of two instances with the example codes of R7; the second instance is as after reset. -/
abbrev machine (l : Link) (q : List Input) : State :=
  { params := Params.sample, links := [l, Link.reset], sel := 0, input := q }

/-- Instance 0 after an outcome that completes. -/
def after (o : StateOutcome) : Option Link :=
  match o with
  | .next s => s.links[0]?
  | .fault _ => none
  | .refused _ => none

/-- What an instance was last asked and what it emitted. -/
def outputs (l : Link) : List Response × List RecordOut := (l.responses, l.records)

/-! ## WellFormed refuses ill-formed terms -/

theorem test_wf_refuses_a_payload_of_65536_bytes :
    (Instr.frame 0#16 (List.replicate 65536 0#8)).wf Markers.default = false := by
  rw [Instr.wf, payloadFits, List.length_replicate]; rfl

theorem test_wf_refuses_a_digit_as_other : (Instr.other 0x41#8).wf Markers.default = false := by decide

theorem test_wf_refuses_a_start_marker_as_other : (Instr.other 0x02#8).wf Markers.default = false := by decide

theorem test_wf_refuses_a_separator_as_other : (Instr.other 0x1F#8).wf Markers.default = false := by decide

theorem test_wf_refuses_an_end_marker_as_other : (Instr.other 0x03#8).wf Markers.default = false := by decide

theorem test_wf_admits_other : (Instr.other 0x47#8).wf Markers.default = true := by decide

/-! ## Words written out from R55's and R51's tables -/

theorem test_decode_create : decodeOp [0x01#8, 0x3C#8, 0x2C#8, 0x3E#8, 0x03#8] =
    .ok (.create 0x3C#8 0x2C#8 0x3E#8, [0x03#8]) := rfl

theorem test_decode_rxByte : decodeOp [0x02#8, 0xFF#8] = .ok (.rxByte 0xFF#8, []) := rfl

theorem test_decode_lastError : decodeOp [0x03#8] = .ok (.lastError, []) := rfl

theorem test_decode_crcReset : decodeOp [0x10#8] = .ok (.crcReset, []) := rfl

theorem test_decode_crcUpdate : decodeOp [0x11#8, 0x31#8] = .ok (.crcUpdate 0x31#8, []) := rfl

theorem test_decode_crcValue : decodeOp [0x12#8] = .ok (.crcValue, []) := rfl

theorem test_decode_frame_high_byte_first : decodeOp [0x13#8, 0x01#8, 0x02#8, 0x00#8, 0x02#8, 0xAA#8, 0xBB#8, 0x10#8] =
    .ok (.frame 0x0102#16 [0xAA#8, 0xBB#8], [0x10#8]) := rfl

theorem test_decode_reserved : decodeOp [0x04#8] = .error .reservedSelector := rfl

theorem test_decode_create_truncated : decodeOp [0x01#8, 0x02#8, 0x1F#8] = .error .truncated := rfl

theorem test_decode_frame_truncated : decodeOp [0x13#8, 0x00#8, 0x10#8, 0x00#8, 0x05#8, 0x31#8, 0x32#8, 0x33#8] =
    .error .truncated := rfl

theorem test_wire_markers : [0x02#8, 0x1F#8, 0x03#8].map (decodeWire (some Markers.default)) =
    [.startMark, .sepMark, .endMark] := by decide

theorem test_wire_decimal_digits :
    [0x30#8, 0x31#8, 0x32#8, 0x33#8, 0x34#8, 0x35#8, 0x36#8, 0x37#8, 0x38#8, 0x39#8].map
      (decodeWire (some Markers.default)) =
    [.hex0, .hex1, .hex2, .hex3, .hex4, .hex5, .hex6, .hex7, .hex8, .hex9] := by decide

theorem test_wire_letter_digits :
    [0x41#8, 0x42#8, 0x43#8, 0x44#8, 0x45#8, 0x46#8, 0x61#8, 0x62#8, 0x63#8, 0x64#8, 0x65#8, 0x66#8].map
      (decodeWire (some Markers.default)) =
    [.hexUpperA, .hexUpperB, .hexUpperC, .hexUpperD, .hexUpperE, .hexUpperF,
      .hexLowerA, .hexLowerB, .hexLowerC, .hexLowerD, .hexLowerE, .hexLowerF] := by decide

theorem test_wire_neighbours_are_other :
    [0x2F#8, 0x3A#8, 0x40#8, 0x47#8, 0x60#8, 0x67#8, 0x00#8, 0xFF#8].map (decodeWire (some Markers.default)) =
    [.other 0x2F#8, .other 0x3A#8, .other 0x40#8, .other 0x47#8, .other 0x60#8, .other 0x67#8, .other 0x00#8,
      .other 0xFF#8] := by decide

theorem test_encode_frame : encode Markers.default (.frame 0x0102#16 [0xAA#8, 0xBB#8]) =
    [0x13#8, 0x01#8, 0x02#8, 0x00#8, 0x02#8, 0xAA#8, 0xBB#8] := by decide

/-! ## The host's entry points, on numerals -/

theorem test_table_host_rows :
    [0x01, 0x02, 0x03, 0x10, 0x11, 0x12, 0x13].map (decodeTableWord 8) =
    [some (.create 0#8 0#8 0#8), some (.rxByte 0#8), some .lastError, some .crcReset, some (.crcUpdate 0#8),
      some .crcValue, some (.frame 0#16 [])] := by decide

theorem test_table_operands_count_on : decodeTableWord 32 0x031F0201 = some (.create 0x02#8 0x1F#8 0x03#8) := by decide

theorem test_table_wire_rows : [0x30, 0x46, 0x66, 0x47].map (decodeTableWord 8) =
    [some .hex0, some .hexUpperF, some .hexLowerF, some (.other 0x47#8)] := by decide

/-- The first step after reset runs the word (R99: an unbound instance answers `InvalidInstance`). -/
theorem test_first_step_lastError :
    (after (step (State.reset.withFetchWord 8 0x03))).map outputs = some ([.status .invalidInstance], []) := by decide

/-- The first step after reset runs CREATE with its three markers (K-vectors, L1.7). -/
theorem test_first_step_create :
    (after (step (State.reset.withFetchWord 32 0x031F0201))).map (fun l => (l.bound, l.markers, l.rx, l.tx)) =
    some (true, Markers.default, none, none) := by decide

/-- A wire word is taken by the parser, which drops it while unbound (R99). -/
theorem test_first_step_hex : after (step (State.reset.withFetchWord 8 0x41)) = some Link.reset := by decide

/-- With nothing issued a step changes nothing (R116). -/
theorem test_step_of_nothing : step State.reset = .next State.reset := rfl

/-- A fault of instance 0 leaves instance 1 running (R40, R106), and is the outcome once nothing else can run. -/
theorem test_a_stop_ends_its_instance_only :
    (after (step (machine fresh [.op 0 [0x12#8], .op 1 [0x03#8]]))).map outputs = some ([], []) ∧
    (match step (machine fresh [.op 0 [0x12#8], .op 1 [0x03#8]]) with
      | .next s => s.links[1]?.map (·.responses)
      | _ => none) = some [.status .invalidInstance] ∧
    run 2 (machine fresh [.op 0 [0x12#8], .op 1 [0x03#8]]) = .fault .undefinedRead := ⟨by decide, by decide, rfl⟩

/-! ## Single steps (95_test_vectors.md) -/

/-- K-vectors: CREATE on an unbound instance answers `Ok`. -/
theorem test_create : (after (exec (.create 0x02#8 0x1F#8 0x03#8) (machine Link.reset []))).map
    (fun l => (l.bound, l.markers, l.status, l.responses)) = some (true, Markers.default, .ok, [.status .ok]) := by decide

theorem test_create_twice : exec (.create 0x02#8 0x1F#8 0x03#8) (machine fresh []) = .refused .alreadyCreated := rfl

/-- R101: `InProgress` in the middle of a frame. -/
theorem test_lastError : (after (exec .lastError (machine (reading .readCommand 0xC782#16 0#8 1#32) []))).map
    (·.responses) = some [.status .inProgress] := by decide

/-- E3. -/
theorem test_crcReset : (after (exec .crcReset (machine fresh []))).map (fun l => (l.tx, l.rx)) =
    some (some 0xFFFF#16, none) := by decide

/-- L1.1: the first fold of the check string. -/
theorem test_crcUpdate : (after (exec (.crcUpdate 0x31#8) (machine { fresh with tx := some 0xFFFF#16 } []))).map (·.tx) =
    some (some 0xC782#16) := by decide

/-- E2: `⊥` stays `⊥`. -/
theorem test_crcUpdate_bottom : (after (exec (.crcUpdate 0x31#8) (machine fresh []))).map (fun l => (l.tx, l.responses)) =
    some (none, [.status .ok]) := by decide

/-- E4. -/
theorem test_crcValue : (after (exec .crcValue (machine { fresh with tx := some 0xB915#16 } []))).map (·.responses) =
    some [.value .ok 0xB915#16] := by decide

/-- E1. -/
theorem test_crcValue_bottom : exec .crcValue (machine fresh []) = .fault .undefinedRead := rfl

/-- F4. -/
theorem test_frame : (after (exec (.frame 8#16 []) (machine fresh []))).map (fun l => (l.tx, l.responses)) =
    some (some 0xFFFF#16,
      [.datagram .ok 8#16 [0x02#8, 0x1F#8, 0x36#8, 0x35#8, 0x35#8, 0x33#8, 0x35#8, 0x03#8]]) := by decide +kernel

/-- F5: the fold comes before the length check. -/
theorem test_frame_too_long : (after (exec (.frame 7#16 []) (machine fresh []))).map (fun l => (l.tx, l.responses)) =
    some (some 0xFFFF#16, [.datagram .lengthError 0#16 []]) := by decide +kernel

/-- P12: a start byte in a frame re-arms. -/
theorem test_start : (after (exec .startMark (machine (checking 0xE1E1#16 0x12#32) []))).map
    (fun l => (l.phase, l.status, l.acc, l.fieldIndex, l.rx)) =
    some (.readCommand, .inProgress, 0#32, 0#8, some 0xFFFF#16) := by decide

/-- P13: the fold of the separator, then `UnknownCommand`. -/
theorem test_sep_unknown_command : (after (exec .sepMark (machine (reading .readCommand (crc [0x37#8]) 0#8 7#32) []))).map
    (fun l => (l.phase, l.status, l.acc, l.rx)) =
    some (.idle, .unknownCommand, 0#32, some 0x62D3#16) := by decide +kernel

/-- The motor field `1FF` of L2.4 commits `FF`, and the fourth field ends the payload. -/
theorem test_sep_fourth_motor_field : (after (exec .sepMark (machine (motorAt 3#8 0x1FF#32) []))).map
    (fun l => (l.phase, l.record, l.fieldIndex, l.acc)) =
    some (.validateChecksum, .motorValues 10#8 0#8 0#8 0xFF#8, 4#8, 0#32) := by decide

/-- P1. -/
theorem test_end_match : (after (exec .endMark (machine (checking 0xE1E1#16 0xE1E1#32) []))).map
    (fun l => (l.status, l.phase, l.records)) = some (.ok, .idle, [.motorValues 10#8 20#8 30#8 40#8]) := by decide

/-- L2.4: the checksum `1E1E1` does not match `E1E1`. -/
theorem test_end_mismatch : (after (exec .endMark (machine (checking 0xE1E1#16 0x1E1E1#32) []))).map
    (fun l => (l.status, l.phase, l.records)) = some (.checksumError, .idle, []) := by decide

/-- L2.4: the 9th digit pushes out the leading one. -/
theorem test_hex_wraps : (after (exec .hex1 (machine (reading .readCommand 0#16 0#8 0x10000000#32) []))).map (·.acc) =
    some 1#32 := by decide

/-- L2.4: `a F` is `AF`. -/
theorem test_hex_mixed_case : (after (exec .hexUpperF (machine (reading .validateChecksum 0#16 4#8 0xA#32) []))).map
    (fun l => (l.acc, l.rx)) = some (0xAF#32, some 0#16) := by decide

/-- P20: an OTHER byte ends the frame and is not folded. -/
theorem test_other : (after (exec (.other 0x80#8) (machine (reading .readMotorValues 0xECBF#16 0#8 10#32) []))).map
    (fun l => (l.status, l.phase, l.acc, l.rx)) = some (.invalidSign, .idle, 10#32, some 0xECBF#16) := by decide

/-- P35: the default start byte is OTHER for other markers. -/
theorem test_rxByte_uses_the_markers : (after (exec (.rxByte 0x02#8) (machine
    { reading .readCommand 0#16 0#8 1#32 with startByte := 0x3C#8, fieldSeparator := 0x2C#8, endByte := 0x3E#8 } []))).map
    (fun l => (l.status, l.phase)) = some (.invalidSign, .idle) := by decide

/-- L2.4: the real `1000.0` in binary64 (1000 = 1.953125 * 2^9; the layout is log 8's). -/
theorem test_pidToReal : pidToReal 1000#32 = 0x408F400000000000#64 := by decide +kernel

/-- L2.4: `PID` records carry their components high byte first (R57). -/
theorem test_record_bytes : (Record.pidAngle 1#8 1000#32 10#32 255#32).out.toBytes =
    [0x01#8, 0x01#8, 0#8, 0#8, 0x03#8, 0xE8#8, 0#8, 0#8, 0#8, 0x0A#8, 0#8, 0#8, 0#8, 0xFF#8] := by decide +kernel

/-! ## Witnesses: the hypotheses of the obligations are met

Each theorem gives a concrete state and operands for the hypotheses of the obligation it is named after, a case per clause. -/

/-- `StepKeepsTheInvariant`, and every obligation over the invariant: a machine in the middle of a frame meets it, and a step from
it completes. -/
theorem witness_StepKeepsTheInvariant :
    (machine (checking 0xE1E1#16 0xE1E1#32) [.wire 0 [0x03#8]]).Inv ∧
    (after (step (machine (checking 0xE1E1#16 0xE1E1#32) [.wire 0 [0x03#8]]))).isSome = true := by decide

/-- The invariant holds in every phase, at the last index of a payload. -/
theorem witness_Inv_phases : (machine fresh []).Inv ∧ (machine (reading .readCommand 0#16 0#8 1#32) []).Inv ∧
    (machine (motorAt 3#8 0#32) []).Inv ∧ (machine (pidAt 3#8 0#32) []).Inv :=
  ⟨by decide, by decide, by decide, by decide⟩

theorem witness_DecodingAHostOperationsBytesGivesItBack :
    (Instr.frame 0xFFFF#16 [0x03#8]).format = .hostOp ∧ (Instr.frame 0xFFFF#16 [0x03#8]).wf Markers.default = true := by decide

theorem witness_DecodedBytesAreTheOperationsEncoding :
    decodeOp [0x13#8, 0#8, 0#8, 0#8, 0#8, 0x12#8] = .ok (.frame 0#16 [], [0x12#8]) := rfl

theorem witness_EveryByteHasExactlyOneRow : Markers.default.legal = true ∧
    (Instr.other 0x47#8).wf Markers.default = true ∧ encode Markers.default (.other 0x47#8) = [0x47#8] ∧
    (Instr.other 0x47#8).format = .wireByte := by decide

/-- The bounds of R56's three ranges are refused; their neighbours in the table are not. -/
theorem witness_ReservedAndTruncatedOperationsAreRefused_reserved :
    [0x00#8, 0x04#8, 0x0F#8, 0x14#8, 0xFF#8].map selectorOf = [none, none, none, none, none] ∧
    [0x01#8, 0x03#8, 0x10#8, 0x13#8].map (fun b => (selectorOf b).isSome) = [true, true, true, true] ∧
    (machine fresh [.op 0 [0x04#8], .wire 0 [0x02#8]]).links[0]? = some fresh ∧
    (Input.wire 0 [0x02#8]).link = 0 := by decide

theorem witness_ReservedAndTruncatedOperationsAreRefused_truncated :
    (Instr.frame 0#16 [0x31#8]).format = .hostOp ∧ (Instr.frame 0#16 [0x31#8]).wf Markers.default = true ∧
    5 < (encode Markers.default (.frame 0#16 [0x31#8])).length ∧
    1 < (encode Markers.default (.create 0#8 0#8 0#8)).length := by decide

theorem witness_AStepRunsTheIssuedInstruction :
    (machine fresh [.op 0 [0x03#8, 0x10#8]]).links[0]? = some fresh ∧
    decodeOp [0x03#8, 0x10#8] = .ok (.lastError, [0x10#8]) ∧
    (machine fresh [.wire 0 [0x02#8]]).input = .wire 0 [0x02#8] :: [] ∧
    waiting (machine fresh [.wire 0 []]).input = [] := ⟨rfl, rfl, rfl, rfl⟩

theorem witness_RxByteRunsTheRowOfItsByte : (machine fresh []).links[(machine fresh []).sel]? = some fresh ∧
    (machine Link.reset []).links[(machine Link.reset []).sel]? = some Link.reset := by decide

theorem witness_RxByteAlwaysCompletes : (machine (checking 0#16 0#32) []).Inv ∧
    (machine (checking 0#16 0#32) []).links[0]? = some (checking 0#16 0#32) := by decide

/-- The three clauses: bound; unbound with markers that are not distinct or a digit; unbound with legal markers. -/
theorem witness_CreateBindsAnUnboundInstance : fresh.bound = true ∧ Link.reset.bound = false ∧
    isHex 0x41#8 = true ∧ (0x00#8 : Byte) ≠ 0xFF#8 ∧ (0x00#8 : Byte) ≠ 0x80#8 ∧ (0xFF#8 : Byte) ≠ 0x80#8 ∧
    isHex 0x00#8 = false ∧ isHex 0xFF#8 = false ∧ isHex 0x80#8 = false := by decide

theorem witness_UnboundOperationsChangeNothing :
    (machine Link.reset []).links[(machine Link.reset []).sel]? = some Link.reset ∧ Link.reset.bound = false ∧
    receivedByte (.rxByte 0x02#8) = true ∧ receivedByte .startMark = true := by decide

theorem witness_LastErrorReturnsTheStatus : (machine fresh []).links[(machine fresh []).sel]? = some fresh ∧
    (machine fresh []).Inv ∧ fresh.bound = true := by decide

theorem witness_CrcResetSetsTheInitialValue : (machine fresh []).links[(machine fresh []).sel]? = some fresh ∧
    fresh.bound = true ∧ Link.reset.bound = false ∧
    (after (exec .crcReset (machine fresh []))).isSome = true := by decide

theorem witness_CrcUpdateFoldsOneByte : ({ fresh with tx := some 0#16 } : Link).tx = some 0#16 ∧ fresh.tx = none ∧
    fresh.bound = true ∧ Link.reset.bound = false := by decide

theorem witness_CrcValueReadsTheContextOrFaults : ({ fresh with tx := some 0xFFFF#16 } : Link).tx = some 0xFFFF#16 ∧
    fresh.tx = none ∧ fresh.bound = true ∧ Link.reset.bound = false := by decide

/-- A capacity equal to the output's length, and one less; an operand list that just suffices, and one byte less. -/
theorem witness_FrameBuildsTheDatagram :
    ([fresh.startByte] ++ [] ++ [fresh.fieldSeparator] ++ render (crc []) 10 ++ [fresh.endByte]).length ≤ (8#16 : Half).toNat ∧
    (7#16 : Half).toNat < ([fresh.startByte] ++ [] ++ [fresh.fieldSeparator] ++ render (crc []) 10 ++ [fresh.endByte]).length ∧
    (0x00#8 : Byte).toNat * 256 + (0x01#8 : Byte).toNat ≤ [0x31#8].length ∧
    ([] : List Byte).length < (0x00#8 : Byte).toNat * 256 + (0x01#8 : Byte).toNat := by decide +kernel

theorem witness_HexDigitsAreTheTwentyTwoBytes :
    [0x30#8, 0x39#8, 0x41#8, 0x46#8, 0x61#8, 0x66#8].map isHex = [true, true, true, true, true, true] ∧
    [0x2F#8, 0x3A#8, 0x40#8, 0x47#8, 0x60#8, 0x67#8].map isHex = [false, false, false, false, false, false] := by decide

theorem witness_HexDigitsAreFoldedAndAccumulated : (Instr.hexLowerF, 0x66#8, 15#4) ∈ hexRows ∧
    (reading .readCommand 0#16 0#8 0#32).phase = .readCommand ∧ (motorAt 0#8 0#32).phase = .readMotorValues ∧
    (pidAt 0#8 0#32).phase = .readPidAngle ∧ (checking 0#16 0#32).phase = .validateChecksum ∧ fresh.phase = .idle := by decide

theorem witness_PidToRealIsExact : (1#32 : Word) ≠ 0#32 ∧ (0xFFFFFFFF#32 : Word) ≠ 0#32 := by decide

theorem witness_StartRearmsInEveryPhase :
    (machine (checking 0#16 0#32) []).links[(machine (checking 0#16 0#32) []).sel]? = some (checking 0#16 0#32) ∧
    (checking 0#16 0#32).bound = true := by decide

theorem witness_IdleDropsEveryByteButStart : (machine fresh []).links[(machine fresh []).sel]? = some fresh ∧
    fresh.bound = true ∧ fresh.phase = .idle ∧ (Instr.other 0x47#8).format = .wireByte ∧
    (Instr.other 0x47#8).wf fresh.markers = true ∧ Instr.other 0x47#8 ≠ .startMark ∧
    (0x1F#8 : Byte) ≠ fresh.startByte := by decide

/-- The three clauses: `CMD_MOTOR`, `CMD_PID`, and a value that is neither. -/
theorem witness_SeparatorSelectsTheCommand : (reading .readCommand 0#16 0#8 1#32).phase = .readCommand ∧
    (reading .readCommand 0#16 0#8 1#32).acc = Params.sample.cmdMotor ∧
    (reading .readCommand 0#16 0#8 2#32).acc ≠ Params.sample.cmdMotor ∧
    (reading .readCommand 0#16 0#8 2#32).acc = Params.sample.cmdPid ∧
    (reading .readCommand 0#16 0#8 0#32).acc ≠ Params.sample.cmdMotor ∧
    (reading .readCommand 0#16 0#8 0#32).acc ≠ Params.sample.cmdPid := by decide

/-- Each field index, and the two ends of the guard's range. -/
theorem witness_SeparatorCommitsAMotorField : (motorAt 0#8 0#32).phase = .readMotorValues ∧
    (motorAt 0#8 0#32).record = .motorValues 10#8 0#8 0#8 0#8 ∧ (motorAt 0#8 0#32).bound = true ∧
    [0#8, 1#8, 2#8, 3#8].map (fun k => (motorAt k 0#32).fieldIndex) = [0#8, 1#8, 2#8, 3#8] ∧
    4 ≤ (motorAt 4#8 0#32).fieldIndex.toNat ∧ 4 ≤ (motorAt 255#8 0#32).fieldIndex.toNat := by decide

/-- Each field index, a selector that is a code and one that is none in its upper bits only, and the guard's range. -/
theorem witness_SeparatorCommitsAPidField : (pidAt 0#8 0#32).phase = .readPidAngle ∧
    (pidAt 0#8 0#32).record = .pidAngle 1#8 0#32 0#32 0#32 ∧ (pidAt 0#8 0#32).bound = true ∧
    (pidAt 0#8 3#32).acc = Params.sample.subAngle.setWidth 32 ∧
    (pidAt 0#8 0x101#32).acc ≠ Params.sample.subRollPitch.setWidth 32 ∧
    (pidAt 0#8 0x101#32).acc ≠ Params.sample.subYaw.setWidth 32 ∧
    (pidAt 0#8 0x101#32).acc ≠ Params.sample.subAngle.setWidth 32 ∧
    [0#8, 1#8, 2#8, 3#8].map (fun k => (pidAt k 0#32).fieldIndex) = [0#8, 1#8, 2#8, 3#8] ∧
    4 ≤ (pidAt 4#8 0#32).fieldIndex.toNat ∧ 4 ≤ (pidAt 255#8 0#32).fieldIndex.toNat := by decide

theorem witness_EndComparesTheChecksum : (checking 0xE1E1#16 0#32).phase = .validateChecksum ∧
    (checking 0xE1E1#16 0#32).rx = some 0xE1E1#16 ∧ (checking 0xE1E1#16 0#32).bound = true ∧
    (checking 0xE1E1#16 0xE1E1#32).acc = (0xE1E1#16 : Half).setWidth 32 ∧
    (checking 0xE1E1#16 0x1E1E1#32).acc ≠ (0xE1E1#16 : Half).setWidth 32 := by decide

theorem witness_UnacceptedBytesEndTheFrame : (reading .readCommand 0#16 0#8 0#32).phase = .readCommand ∧
    (motorAt 0#8 0#32).phase = .readMotorValues ∧ (pidAt 0#8 0#32).phase = .readPidAngle ∧
    (checking 0#16 0#32).phase = .validateChecksum ∧ (checking 0#16 0#32).phase ≠ .idle ∧
    isOtherByte (checking 0#16 0#32).markers 0xFF#8 = true := by decide

theorem witness_InertUntilTheNextStartByte :
    (machine fresh [.wire 0 [0x41#8, 0x03#8]]).links[0]? = some fresh ∧ [0x41#8, 0x03#8] ≠ ([] : List Byte) ∧
    fresh.bound = true ∧ fresh.phase = .idle ∧ fresh.startByte ∉ [0x41#8, 0x03#8] := by decide

theorem witness_ChunkingCannotBeSeen : (machine (checking 0#16 0#32) []).links[0]? = some (checking 0#16 0#32) ∧
    (checking 0#16 0#32).ReadingHasCrc ∧
    ([] : List Byte) ++ [0x02#8] ≠ [] ∧ [0x02#8] ++ ([] : List Byte) ≠ [] := by decide

/-- GOOD up to its checksum digits (95_test_vectors.md) runs, and ends in `ValidateChecksum`. -/
theorem witness_ReceiveCrcCoversCommandAndPayload :
    fresh.bound = true ∧ fresh.markers.legal = true ∧
    fresh.startByte ∉ [0x31#8, 0x1F#8, 0x1F#8, 0x1F#8, 0x1F#8] ∧ AllHex [0x45#8] ∧
    (after (run 8 (machine fresh [.wire 0 ([0x02#8] ++ [0x31#8, 0x1F#8, 0x1F#8, 0x1F#8, 0x1F#8] ++ [0x1F#8] ++ [0x45#8])]))).map
      (·.phase) = some .validateChecksum := by decide +kernel

/-- GOOD's fields, with an empty one among them. -/
theorem witness_MotorFrameIsDecoded : fresh.markers.legal = true ∧ fresh.bound = true ∧
    AllHex [0x31#8] ∧ AllHex [0x30#8, 0x41#8] ∧ AllHex [] ∧ hexNumber [0x31#8] = Params.sample.cmdMotor := by decide

theorem witness_PidFrameIsDecoded : Params.sample.Legal ∧ fresh.markers.legal = true ∧ fresh.bound = true ∧
    AllHex [0x32#8] ∧ AllHex [0x66#8, 0x46#8] ∧ hexNumber [0x32#8] = Params.sample.cmdPid ∧
    (1#8 : Byte) = Params.sample.subRollPitch ∧ hexNumber [0x31#8] = (1#8 : Byte).setWidth 32 := by decide

theorem witness_AStartByteForgetsTheOldFrame : fresh.bound = true ∧ (checking 0#16 0#32).bound = true ∧
    fresh.markers = (checking 0#16 0#32).markers ∧
    (machine fresh [.wire 0 [0x02#8]]).params = (machine (checking 0#16 0#32) [.wire 0 [0x02#8]]).params ∧
    (machine fresh [.wire 0 [0x02#8]]).input = .wire 0 (fresh.startByte :: []) :: [] := by decide

theorem witness_OperationsOnDifferentInstancesCommute : (0 : Nat) ≠ 1 ∧
    (after (exec .crcReset { machine fresh [] with sel := 0 })).isSome = true ∧
    (after (exec .lastError { machine fresh [] with sel := 1 })).isSome = true := by decide

theorem witness_AnOperationTouchesOnlyItsInstance :
    (after (exec .crcReset (machine fresh []))).isSome = true ∧
    ({ machine fresh [] with links := [fresh] } : State).links[0]? = (machine fresh []).links[0]? := by decide

/-- The engine clause from two instances that differ in the parser, the parser clause from two that differ in the engine. -/
theorem witness_EngineAndParserDoNotInterfere : engineOp (.crcUpdate 0x31#8) = true ∧ receivedByte .startMark = true ∧
    fresh.SameConfig (checking 0#16 0#32) ∧ fresh.SameEngine (checking 0#16 0#32) ∧
    fresh.SameParser { fresh with tx := some 0#16 } ∧
    (after (exec (.crcUpdate 0x31#8) (machine fresh []))).isSome = true ∧
    (after (exec .startMark (machine fresh []))).isSome = true := by decide

theorem witness_MarkersAreFixedOnceCreated : fresh.bound = true ∧
    (after (step (machine fresh [.op 0 [0x03#8]]))).isSome = true := by decide

theorem witness_RecordsGoOutOnlyForValidFrames :
    (after (exec .endMark (machine (checking 0xE1E1#16 0xE1E1#32) []))).map (fun l => l.records.length) = some 1 ∧
    (after (exec .hex0 (machine (checking 0xE1E1#16 0xE1E1#32) []))).map (fun l => l.records.length) = some 0 := by decide

/-- A fault and both refusals, from states that meet the invariant; and a missing instance. -/
theorem witness_OnlyCrcValueFaultsAndOnlyCreateIsRefused :
    (machine fresh []).Inv ∧ (machine Link.reset []).Inv ∧
    exec .crcValue (machine fresh []) = .fault .undefinedRead ∧
    exec (.create 0#8 1#8 2#8) (machine fresh []) = .refused .alreadyCreated ∧
    exec (.create 0#8 0#8 2#8) (machine Link.reset []) = .refused .illegalMarkers ∧
    exec .lastError { machine fresh [] with sel := 2 } = .refused .noSuchLink :=
  ⟨by decide, by decide, rfl, rfl, rfl, rfl⟩

theorem witness_InvalidPointerIsNeverProduced :
    (∀ l ∈ (machine fresh [.op 0 [0x03#8]]).links,
      l.status ≠ .invalidPointer ∧ ∀ r ∈ l.responses, r.st ≠ .invalidPointer) ∧
    (after (step (machine fresh [.op 0 [0x03#8]]))).isSome = true := by decide

/-- Two machines that differ in the markers and the status of an instance not created, and in the record of one that is. -/
theorem witness_UnspecifiedRegistersAreNeverRead :
    (machine Link.reset []).Agree (machine { Link.reset with startByte := 0x41#8, status := .internalError } []) ∧
    (machine fresh []).Agree (machine { fresh with record := .pidAngle 1#8 2#32 3#32 4#32 } []) := by
  refine ⟨⟨rfl, rfl, rfl, ?_⟩, ⟨rfl, rfl, rfl, ?_⟩⟩ <;>
    exact .cons (by decide) (.cons (by decide) .nil)

/-- A fault before another instance's operation, and a refusal with nothing else waiting. -/
theorem witness_AStopEndsItsInstanceOnly :
    attempt (machine fresh []) (.op 0 [0x12#8]) [] [] = (Stop.fault .undefinedRead).outcome ∧
    attempt (machine fresh []) (.op 0 [0x04#8]) [] [] = (Stop.refused .reservedSelector).outcome ∧
    (Input.op 0 [0x12#8]).spent = false ∧
    waiting ([.op 1 [0x03#8], .op 0 [0x03#8]].filter fun y => y.link != (Input.op 0 [0x12#8]).link) = [.op 1 [0x03#8]] ∧
    (after (step (machine fresh [.op 1 [0x03#8]]))).isSome = true :=
  ⟨rfl, rfl, by decide, by decide, by decide⟩

/-- One operation that faults and one that is refused, on different instances; and a received byte. -/
theorem witness_InterleavingCannotBeSeen : (Input.op 0 [0x12#8]).link ≠ (Input.op 1 [0x01#8, 0#8, 0#8, 0#8]).link ∧
    (Input.op 0 [0x12#8]).single ∧ (Input.op 1 [0x01#8, 0#8, 0#8, 0#8]).single ∧ (Input.wire 1 [0x02#8]).single := by
  refine ⟨by decide, ?_, ?_, by simp [Input.single]⟩ <;> (intro i more h; cases h; rfl)

end Sys2Proof.Tests
end

section
/-! SUPPORT. What an instruction can do to its instance when it completes: where the proofs about every step begin. -/

namespace Sys2Proof.Machine

open Sys2Proof

/-- A fact about every instruction is one about each host operation and one about the wire rows together. -/
theorem instr_by_row {P : Instr → Prop} (create : ∀ s u e, P (.create s u e)) (rxByte : ∀ b, P (.rxByte b))
    (lastError : P .lastError) (crcReset : P .crcReset) (crcUpdate : ∀ b, P (.crcUpdate b)) (crcValue : P .crcValue)
    (frame : ∀ cap payload, P (.frame cap payload)) (wire : ∀ i, i.format = .wireByte → P i) (i : Instr) : P i := by
  cases hi : i.format with
  | wireByte => exact wire i hi
  | hostOp =>
    cases i
    case create s u e => exact create s u e
    case rxByte b => exact rxByte b
    case lastError => exact lastError
    case crcReset => exact crcReset
    case crcUpdate b => exact crcUpdate b
    case crcValue => exact crcValue
    case frame cap payload => exact frame cap payload
    all_goals cases hi

/-- A wire row receives the byte it stands for (R51), in the class its row names. -/
theorem onInstance_of_wireByte {i : Instr} (h : i.format = .wireByte) :
    ∃ c, ∀ p k l, onInstance i p k l = l.wire p c ((wireByte? l.markers i).getD 0) := by
  cases i <;> cases h <;> exact ⟨_, fun _ _ _ => rfl⟩

/-- In `Idle` every byte but START is dropped (R78). -/
theorem Link.receive_of_idle {l : Link} (h : l.phase = .idle) (p : Params) {c : ByteClass} (hc : c ≠ .start) (b : Byte) :
    l.receive p c b = .next l := by
  cases c with
  | start => exact absurd rfl hc
  | sep => rw [Link.receive, Link.onSep, h]
  | fin => rw [Link.receive, Link.onEnd, h]
  | hex d => rw [Link.receive, Link.onHex, h]
  | other => rw [Link.receive, Link.onOther, h]

/-- All the bound split can do when it completes. -/
theorem Link.ifBound_eq_next {l l' : Link} {u b : LinkOutcome} :
    l.ifBound u b = .next l' ↔ (l.bound = false ∧ u = .next l') ∨ (l.bound = true ∧ b = .next l') := by
  cases h : l.bound <;> simp [h]

/-- All a CREATE can do when it completes (R98). -/
theorem Link.create_eq_next {l l' : Link} {m : Markers} :
    l.create m = .next l' ↔ l.bound = false ∧ m.legal = true ∧ l' = (l.created m).respond (.status .ok) := by
  cases hb : l.bound <;> cases hm : m.legal <;> simp [Link.create, hb, hm, eq_comm]

/-- Nothing but the engine's side of an instance changed, and of an instance not created not even the transmit context. -/
abbrev Link.ParserKept (l l' : Link) : Prop :=
  l.SameConfig l' ∧ l.SameParser l' ∧ (l.bound = false → l'.tx = l.tx)

/-- All an instruction can do to its instance when it completes: create it, keep its parser, or hand the parser a byte. -/
theorem onInstance_next {i : Instr} {p : Params} {k : Nat} {l l' : Link} (h : onInstance i p k l = .next l') :
    (l.bound = false ∧ ∃ m : Markers, m.legal = true ∧ l' = (l.created m).respond (.status .ok)) ∨
    l.ParserKept l' ∨
    (l.bound = true ∧ ∃ c b, l.receive p c b = .next l') := by
  have received (c : ByteClass) (b : Byte) (h : l.wire p c b = .next l') :
      l.ParserKept l' ∨ (l.bound = true ∧ ∃ c b, l.receive p c b = .next l') := by
    obtain ⟨-, h⟩ | ⟨hb, h⟩ := Link.ifBound_eq_next.mp h
    · cases h; exact .inl (by simp [Link.ParserKept, Link.SameConfig, Link.SameParser])
    · exact .inr ⟨hb, c, b, h⟩
  have engine (r r' : Response) (tx : Option Half)
      (h : l.ifBound (.next (l.respond r)) (.next ({ l with tx := tx }.respond r')) = .next l') : l.ParserKept l' := by
    obtain ⟨hb, h⟩ | ⟨hb, h⟩ := Link.ifBound_eq_next.mp h <;> cases h <;>
      simp [Link.ParserKept, Link.SameConfig, Link.SameParser, hb]
  induction i using instr_by_row with
  | create s u e =>
    obtain ⟨hb, hm, rfl⟩ := Link.create_eq_next.mp h
    exact .inl ⟨hb, _, hm, rfl⟩
  | rxByte b => exact .inr (received _ b h)
  | lastError => exact .inr (.inl (engine _ _ l.tx h))
  | crcReset => exact .inr (.inl (engine _ _ _ h))
  | crcUpdate b => exact .inr (.inl (engine _ _ _ h))
  | frame cap payload => exact .inr (.inl (engine _ _ _ h))
  | crcValue =>
    obtain ⟨hb, h⟩ | ⟨hb, h⟩ := Link.ifBound_eq_next.mp h
    · cases h; exact .inr (.inl (by simp [Link.ParserKept, Link.SameConfig, Link.SameParser]))
    · cases htx : l.tx with
      | none => simp [htx] at h
      | some v =>
        simp only [htx] at h
        cases h
        exact .inr (.inl (by simp [Link.ParserKept, Link.SameConfig, Link.SameParser]))
  | wire i hi =>
    obtain ⟨c, hc⟩ := onInstance_of_wireByte hi
    exact .inr (received c _ (hc p k l ▸ h))

end Sys2Proof.Machine
end

section
/-! SUPPORT. The invariant of R28: what keeps it of one instance, then of the machine through every step. -/

namespace Sys2Proof.Machine

open Sys2Proof

/-! ## Two shapes of an instance that meets the invariant -/

/-- Two instances with the same shape: the same in all that the invariant looks at. -/
abbrev Link.SameShape (l l' : Link) : Prop :=
  l.SameConfig l' ∧ l'.phase = l.phase ∧ l'.status = l.status ∧ l'.fieldIndex = l.fieldIndex ∧
  l'.currentCommand = l.currentCommand ∧ l'.record.tag = l.record.tag ∧ (l'.rx = none ↔ l.rx = none) ∧
  (l.bound = false → l'.tx = l.tx)

theorem Link.ParserKept.sameShape {l l' : Link} (h : l.ParserKept l') : l.SameShape l' := by
  obtain ⟨hconf, ⟨hrx, hphase, hindex, -, hcommand, hrecord, hstatus, -⟩, htx⟩ := h
  exact ⟨hconf, hphase, hstatus, hindex, hcommand, by rw [hrecord], by rw [hrx], htx⟩

/-- The invariant depends on the shape alone. -/
theorem Link.SameShape.inv {l l' : Link} (h : l.SameShape l') (hi : l.Inv) : l'.Inv := by
  obtain ⟨⟨hbound, hstart, hsep, hend⟩, hphase, hstatus, hindex, hcommand, htag, hrx, htx⟩ := h
  have hmarkers : l'.markers = l.markers := by simp [Link.markers, hstart, hsep, hend]
  unfold Link.Inv Link.PhaseMatchesStatus Link.FieldIndexInRange Link.ReadingHasCrc Link.RecordMatchesPhase
    Link.ChecksumPhase Link.MarkersLegal Link.StatusReachable Link.UnboundAsReset at *
  rw [hbound, hphase, hstatus, hindex, hcommand, htag, hmarkers, hrx]
  refine ⟨fun hb => ?_, fun hb => ?_⟩
  · simpa only [ne_eq, hrx] using hi.1 hb
  · rw [htx hb]; exact hi.2 hb

/-- A created instance between frames meets the invariant whatever its parser's other registers hold. -/
theorem Link.inv_of_idle {l : Link} (hb : l.bound = true) (hm : l.MarkersLegal) (hphase : l.phase = .idle)
    (hstatus : l.StatusReachable) (hdone : l.status ≠ .inProgress) : l.Inv := by
  have hmatch : l.PhaseMatchesStatus := ⟨fun h => absurd hphase h, fun h => absurd h hdone⟩
  refine ⟨fun _ => ⟨hmatch, ?_, ?_, ⟨?_, ?_⟩, ?_, hm, hstatus⟩, fun h => ?_⟩ <;> simp_all

/-- What the invariant asks of a created instance inside a frame. -/
theorem Link.inv_of_reading {l : Link} (hb : l.bound = true) (hm : l.MarkersLegal) (hphase : l.phase ≠ .idle)
    (hstatus : l.status = .inProgress) (hrx : l.rx ≠ none) (hindex : l.FieldIndexInRange) (hrecord : l.RecordMatchesPhase)
    (hcheck : l.ChecksumPhase) : l.Inv := by
  refine ⟨fun _ => ⟨?_, hindex, fun _ => hrx, hrecord, hcheck, hm, ?_⟩, fun h => ?_⟩
  · exact ⟨fun _ => hstatus, fun _ => hphase⟩
  · exact ⟨by rw [hstatus]; rfl, by rw [hstatus]; decide⟩
  · simp [hb] at h

/-! ## The parser's operations -/

/-- A frame abandoned with a code of R91 leaves the invariant. -/
theorem Link.error_inv {l : Link} (hb : l.bound = true) (hi : l.Inv) {code : Status}
    (hc : code = .invalidSign ∨ code = .unknownCommand) : (l.error code).Inv := by
  obtain ⟨-, -, -, -, -, hm, -⟩ := hi.1 hb
  obtain rfl | rfl := hc <;> exact Link.inv_of_idle hb hm rfl ⟨rfl, nofun⟩ nofun

theorem Link.reArm_inv {l : Link} (hb : l.bound = true) (hi : l.Inv) : l.reArm.Inv := by
  obtain ⟨-, -, -, -, -, hm, -⟩ := hi.1 hb
  refine Link.inv_of_reading hb hm ?_ rfl ?_ ?_ ⟨?_, ?_⟩ ?_ <;> simp

/-- A separator's first two writes (R80, R83, R86) keep the shape. -/
theorem Link.foldRx_clearAcc_sameShape (l : Link) (b : Byte) : l.SameShape (l.foldRx b).clearAcc := by
  simp [Link.SameShape, Link.SameConfig]

/-- A digit keeps the shape in every phase. -/
theorem Link.onHex_sameShape (l : Link) (b : Byte) (d : Nibble) : l.SameShape (l.onHex b d) := by
  unfold Link.onHex
  cases l.phase <;> simp [Link.SameShape, Link.SameConfig]

@[simp] theorem Record.setMotor_tag (r : Record) (k : BitVec 8) (x : Byte) : (r.setMotor k x).tag = r.tag := by
  unfold Record.setMotor
  split <;> rfl

@[simp] theorem Record.setPid_tag (r : Record) (k : BitVec 8) (v : Word) : (r.setPid k v).tag = r.tag := by
  unfold Record.setPid
  split <;> rfl

@[simp] theorem Record.blankOf_tag (tag : CommandTag) : (Record.blankOf tag).tag = tag := by cases tag <;> rfl

/-- The command commit (R80) enters the payload phase of its command with a blank record and field index 0. -/
theorem Link.selectCommand_inv {l : Link} (hb : l.bound = true) (hi : l.Inv) (hphase : l.phase = .readCommand)
    (p : Params) (v : Word) : (l.selectCommand p v).Inv := by
  unfold Link.selectCommand
  cases commandOf p v with
  | none => exact l.error_inv hb hi (.inr rfl)
  | some tag =>
    obtain ⟨hstatus, -, hrx, -, -, hm, -⟩ := hi.1 hb
    have hreading : l.phase ≠ .idle := by simp [hphase]
    refine Link.inv_of_reading hb hm ?_ (hstatus.mp hreading) (hrx hreading) (fun _ => by simp) ⟨?_, ?_⟩ ?_ <;>
      cases tag <;> simp [Phase.payloadOf]

/-- A payload commit's last step (R83, R86): the index stays below 4 in the payload phase, and the fourth field leaves it. -/
theorem Link.nextField_inv {l : Link} (hb : l.bound = true) (hi : l.Inv)
    (hphase : l.phase = .readMotorValues ∨ l.phase = .readPidAngle) : l.nextField.Inv := by
  obtain ⟨hstatus, hindex, hrx, ⟨hmotor, hpid⟩, -, hm, -⟩ := hi.1 hb
  have hreading : l.phase ≠ .idle := by obtain h | h := hphase <;> simp [h]
  have hlt := hindex hphase
  have hsucc : (l.fieldIndex + 1).toNat = l.fieldIndex.toNat + 1 := by bv_omega
  have htag : l.record.tag = l.currentCommand := by
    obtain h | h := hphase
    · rw [(hmotor h).1, (hmotor h).2]
    · rw [(hpid h).1, (hpid h).2]
  by_cases hlast : (l.fieldIndex + 1).toNat = Config.payloadFields
  · have hphase' : l.nextField.phase = .validateChecksum := if_pos hlast
    have hfour : l.nextField.fieldIndex = 4#8 := BitVec.eq_of_toNat_eq hlast
    refine Link.inv_of_reading hb hm ?_ (hstatus.mp hreading) (hrx hreading) ?_ ⟨?_, ?_⟩ fun _ => ⟨htag, hfour⟩ <;>
      simp [Link.FieldIndexInRange, hphase', -Link.nextField_phase]
  · have hphase' : l.nextField.phase = l.phase := if_neg hlast
    have hpayload : l.phase ≠ .validateChecksum := by obtain h | h := hphase <;> simp [h]
    have hindex' : l.nextField.fieldIndex.toNat < 4 := by
      rw [hsucc, Config.payloadFields] at hlast
      rw [Link.nextField_fieldIndex]
      omega
    exact Link.inv_of_reading hb hm (hphase' ▸ hreading) (hstatus.mp hreading) (hrx hreading) (fun _ => hindex')
      ⟨hphase' ▸ hmotor, hphase' ▸ hpid⟩ fun h => absurd (hphase' ▸ h) hpayload

/-- Storing a field of the same record keeps the shape. -/
theorem Link.setRecord_sameShape (l : Link) {r : Record} (h : r.tag = l.record.tag) :
    l.SameShape { l with record := r } := by
  simp [Link.SameShape, Link.SameConfig, h]

/-- R83's guard never holds, so its commit stores and moves on. -/
theorem Link.commitMotor_inv {l : Link} (hb : l.bound = true) (hi : l.Inv) (hphase : l.phase = .readMotorValues)
    (v : Word) : (l.commitMotor v).Inv := by
  obtain ⟨-, hindex, -⟩ := hi.1 hb
  have hguard : ¬ Config.payloadFields ≤ l.fieldIndex.toNat := Nat.not_le.mpr (hindex (.inl hphase))
  rw [Link.commitMotor, if_neg hguard]
  exact Link.nextField_inv hb ((l.setRecord_sameShape (Record.setMotor_tag ..)).inv hi) (.inl hphase)

/-- R86's guard never holds, so its commit refuses the selector or stores and moves on. -/
theorem Link.commitPid_inv {l : Link} (hb : l.bound = true) (hi : l.Inv) (hphase : l.phase = .readPidAngle)
    (p : Params) (v : Word) : (l.commitPid p v).Inv := by
  obtain ⟨-, hindex, -⟩ := hi.1 hb
  have hguard : ¬ Config.payloadFields ≤ l.fieldIndex.toNat := Nat.not_le.mpr (hindex (.inr hphase))
  rw [Link.commitPid, if_neg hguard]
  split
  · exact Link.error_inv hb hi (.inr rfl)
  · exact Link.nextField_inv hb ((l.setRecord_sameShape (Record.setPid_tag ..)).inv hi) (.inr hphase)

theorem Link.onSep_inv {l : Link} (hb : l.bound = true) (hi : l.Inv) (p : Params) (b : Byte) : (l.onSep p b).Inv := by
  have hi' := (l.foldRx_clearAcc_sameShape b).inv hi
  unfold Link.onSep
  cases hphase : l.phase with
  | idle => exact hi
  | readCommand => exact Link.selectCommand_inv (l := (l.foldRx b).clearAcc) hb hi' hphase p _
  | readMotorValues => exact Link.commitMotor_inv (l := (l.foldRx b).clearAcc) hb hi' hphase _
  | readPidAngle => exact Link.commitPid_inv (l := (l.foldRx b).clearAcc) hb hi' hphase p _
  | validateChecksum => exact Link.error_inv hb hi (.inl rfl)

/-- The end of a frame (R89) leaves a created instance between frames, with `Ok` or `ChecksumError`. -/
theorem Link.endFrame_inv {l : Link} (hb : l.bound = true) (hi : l.Inv) (c : Half) : (l.endFrame c).Inv := by
  obtain ⟨-, -, -, -, -, hm, -⟩ := hi.1 hb
  unfold Link.endFrame
  cases checksumMatches l.acc c <;> exact Link.inv_of_idle hb hm rfl ⟨rfl, nofun⟩ nofun

theorem Link.onEnd_inv {l l' : Link} (hb : l.bound = true) (hi : l.Inv) (h : l.onEnd = .next l') : l'.Inv := by
  unfold Link.onEnd at h
  cases hphase : l.phase with
  | idle => rw [hphase] at h; cases h; exact hi
  | readCommand | readMotorValues | readPidAngle => rw [hphase] at h; cases h; exact Link.error_inv hb hi (.inl rfl)
  | validateChecksum =>
    cases hrx : l.rx with
    | none => simp [hphase, hrx] at h
    | some c => simp only [hphase, hrx] at h; cases h; exact Link.endFrame_inv hb hi c

theorem Link.onOther_inv {l : Link} (hb : l.bound = true) (hi : l.Inv) : l.onOther.Inv := by
  unfold Link.onOther
  cases l.phase with
  | idle => exact hi
  | readCommand | readMotorValues | readPidAngle | validateChecksum => exact Link.error_inv hb hi (.inl rfl)

/-- A received byte keeps the invariant of a created instance. -/
theorem Link.receive_inv {l l' : Link} {p : Params} {c : ByteClass} {b : Byte} (hb : l.bound = true) (hi : l.Inv)
    (h : l.receive p c b = .next l') : l'.Inv := by
  cases c with
  | start => cases h; exact Link.reArm_inv hb hi
  | sep => cases h; exact Link.onSep_inv hb hi p b
  | fin => exact Link.onEnd_inv hb hi h
  | hex d => cases h; exact (l.onHex_sameShape b d).inv hi
  | other => cases h; exact Link.onOther_inv hb hi

/-- A created instance begins between frames (R30, R98). -/
theorem Link.created_respond_inv (l : Link) {m : Markers} (hm : m.legal = true) (r : Response) :
    ((l.created m).respond r).Inv :=
  Link.inv_of_idle rfl hm rfl ⟨rfl, nofun⟩ nofun

/-! ## Every instruction, and every step -/

/-- Every completed instruction keeps the invariant of its instance. -/
theorem onInstance_inv {i : Instr} {p : Params} {k : Nat} {l l' : Link} (hi : l.Inv)
    (h : onInstance i p k l = .next l') : l'.Inv := by
  obtain ⟨-, m, hm, rfl⟩ | hkept | ⟨hb, c, b, h⟩ := onInstance_next h
  · exact l.created_respond_inv hm _
  · exact hkept.sameShape.inv hi
  · exact Link.receive_inv hb hi h

/-- Settles O3: each instance after the step was there before it, changed by at most one instruction, and every instruction keeps
the invariant of its instance. -/
theorem stepKeepsTheInvariant : Obligations.StepKeepsTheInvariant := by
  intro s s' hs hstep l' hl'
  obtain ⟨j, hj⟩ := List.mem_iff_getElem?.mp hl'
  obtain hsame | ⟨i, l, hl, hi⟩ := step_next_link hstep hj
  · exact hs l' (List.mem_of_getElem? hsame)
  · exact onInstance_inv (hs l (List.mem_of_getElem? hl)) hi

end Sys2Proof.Machine
end

section
/-! SUPPORT. No register that R30 leaves unspecified is ever read. Agreement of two instances is
carried through each instruction, then through the machine's operations and the schedule. -/

namespace Sys2Proof.Machine

open Sys2Proof

/-! ## Agreement of two instances -/

/-- Two operations that end alike on instances that agree. -/
def AgreeingLinks : LinkOutcome → LinkOutcome → Prop
  | .next l, .next l' => l.Agree l'
  | .fault r, .fault r' => r = r'
  | .refused r, .refused r' => r = r'
  | _, _ => False

theorem Link.Agree.refl (l : Link) : l.Agree l := by simp [Link.Agree]

theorem AgreeingLinks.refl (o : LinkOutcome) : AgreeingLinks o o := by
  cases o with
  | next l => exact Link.Agree.refl l
  | fault r | refused r => rfl

/-- `l` with another command and record: before a command field is committed nothing else may differ once it is created. -/
def Link.withCommand (l : Link) (tag : CommandTag) (r : Record) : Link := { l with currentCommand := tag, record := r }

@[simp] theorem Link.withCommand_phase (l : Link) (tag : CommandTag) (r : Record) :
    (l.withCommand tag r).phase = l.phase := rfl

/-- In `Idle` and `ReadCommand` the command and the record are unspecified (S2). -/
theorem Link.withCommand_agree {l : Link} (h : l.phase = .idle ∨ l.phase = .readCommand) (tag : CommandTag) (r : Record) :
    l.Agree (l.withCommand tag r) := by
  obtain h | h := h <;> simp [Link.Agree, Link.withCommand, h]

/-- All a created instance that agrees with `l` can be. -/
theorem Link.Agree.of_bound {l l' : Link} (h : l.Agree l') (hb : l.bound = true) :
    l' = l ∨ (l.phase = .idle ∨ l.phase = .readCommand) ∧ ∃ tag r, l' = l.withCommand tag r := by
  obtain ⟨hbound, hrx, htx, hphase, hdraws, hresponses, hrecords, hcreated, hcommand⟩ := h
  obtain ⟨hstart, hsep, hend, hindex, hacc, hstatus⟩ := hcreated hb
  have hl : l' = l.withCommand l'.currentCommand l'.record := by
    rw [Link.withCommand, hbound, hrx, htx, hphase, hdraws, hresponses, hrecords, hstart, hsep, hend, hindex, hacc, hstatus]
  by_cases hp : l.phase = .idle ∨ l.phase = .readCommand
  · exact .inr ⟨hp, _, _, hl⟩
  · obtain ⟨hidle, hread⟩ := not_or.mp hp
    obtain ⟨htag, hrecord⟩ := hcommand hidle hread
    rw [← htag, ← hrecord] at hl
    exact .inl hl

theorem Link.Agree.markers_eq {l l' : Link} (h : l.Agree l') (hb : l.bound = true) : l.markers = l'.markers := by
  obtain rfl | ⟨-, tag, r, rfl⟩ := h.of_bound hb <;> rfl

theorem Link.Agree.status_eq {l l' : Link} (h : l.Agree l') (hb : l.bound = true) : l.status = l'.status := by
  obtain rfl | ⟨-, tag, r, rfl⟩ := h.of_bound hb <;> rfl

/-- The markers are read only of a created instance (R19). -/
theorem Link.Agree.markers?_eq {l l' : Link} (h : l.Agree l') : l.markers? = l'.markers? := by
  have hbound := h.1
  cases hb : l.bound with
  | false => rw [l.markers?_of_unbound hb, l'.markers?_of_unbound (hbound ▸ hb)]
  | true => rw [l.markers?_of_bound hb, l'.markers?_of_bound (hbound ▸ hb), h.markers_eq hb]

theorem Link.Agree.respond {l l' : Link} (h : l.Agree l') (r : Response) : (l.respond r).Agree (l'.respond r) := by
  obtain ⟨hbound, hrx, htx, hphase, hdraws, hresponses, hrecords, hcreated, hcommand⟩ := h
  exact ⟨hbound, hrx, htx, hphase, hdraws, congrArg (· ++ [r]) hresponses, hrecords, hcreated, hcommand⟩

theorem Link.Agree.setTx {l l' : Link} (h : l.Agree l') (tx : Option Half) :
    Link.Agree { l with tx := tx } { l' with tx := tx } := by
  obtain ⟨hbound, hrx, -, hphase, hdraws, hresponses, hrecords, hcreated, hcommand⟩ := h
  exact ⟨hbound, hrx, rfl, hphase, hdraws, hresponses, hrecords, hcreated, hcommand⟩

theorem Link.Agree.drawValue {l l' : Link} (h : l.Agree l') (k : Nat) : (l.drawValue k).Agree (l'.drawValue k) := by
  obtain ⟨hbound, hrx, htx, hphase, hdraws, hresponses, hrecords, hcreated, hcommand⟩ := h
  refine ⟨hbound, hrx, htx, hphase, congrArg (· + 1) hdraws, ?_, hrecords, hcreated, hcommand⟩
  rw [Link.drawValue_responses, Link.drawValue_responses, hdraws, hresponses]

/-- CREATE writes every register that is unspecified before it but the command and the record, which stay so (R30). -/
theorem Link.Agree.created {l l' : Link} (h : l.Agree l') (m : Markers) : (l.created m).Agree (l'.created m) := by
  obtain ⟨-, -, -, -, hdraws, hresponses, hrecords, -⟩ := h
  simp [Link.Agree, hdraws, hresponses, hrecords]

/-! ## Agreement through an instruction -/

/-- Two operations that end alike unbound and alike bound end alike. -/
theorem Link.Agree.ifBound {l l' : Link} (h : l.Agree l') {u u' b b' : LinkOutcome} (hu : AgreeingLinks u u')
    (hb : l.bound = true → AgreeingLinks b b') : AgreeingLinks (l.ifBound u b) (l'.ifBound u' b') := by
  have hbound := h.1
  cases hl : l.bound with
  | false => rwa [Link.ifBound_of_unbound hl, Link.ifBound_of_unbound (hbound ▸ hl)]
  | true => rw [Link.ifBound_of_bound hl, Link.ifBound_of_bound (hbound ▸ hl)]; exact hb hl

/-- The command commit reads neither the command nor the record: it writes both, or ends the frame (R80). -/
theorem Link.selectCommand_withCommand_agree (l : Link) (tag : CommandTag) (r : Record) (p : Params) (v : Word) :
    (l.selectCommand p v).Agree ((l.withCommand tag r).selectCommand p v) := by
  unfold Link.selectCommand
  cases commandOf p v with
  | none => exact Link.withCommand_agree (l := l.error .unknownCommand) (.inl rfl) tag r
  | some selected => exact Link.Agree.refl _

/-- In `ReadCommand` no byte reads the command and the record. -/
theorem Link.receive_withCommand_of_readCommand {l : Link} (h : l.phase = .readCommand) (tag : CommandTag) (r : Record)
    (p : Params) (c : ByteClass) (b : Byte) :
    AgreeingLinks (l.receive p c b) ((l.withCommand tag r).receive p c b) := by
  have invalid : (l.error .invalidSign).Agree ((l.withCommand tag r).error .invalidSign) :=
    Link.withCommand_agree (l := l.error .invalidSign) (.inl rfl) tag r
  cases c with
  | start => exact Link.withCommand_agree (l := l.reArm) (.inr rfl) tag r
  | sep =>
    simp only [Link.receive, Link.onSep, Link.withCommand_phase, h]
    exact Link.selectCommand_withCommand_agree (l.foldRx b).clearAcc tag r p l.acc
  | fin =>
    simp only [Link.receive, Link.onEnd, Link.withCommand_phase, h]
    exact invalid
  | hex d =>
    simp only [Link.receive, Link.onHex, Link.withCommand_phase, h]
    exact Link.withCommand_agree (l := (l.foldRx b).accumulate d) (.inr h) tag r
  | other =>
    simp only [Link.receive, Link.onOther, Link.withCommand_phase, h]
    exact invalid

/-- A byte received before a command field is committed does not read the command and the record. -/
theorem Link.receive_withCommand_agree {l : Link} (hp : l.phase = .idle ∨ l.phase = .readCommand) (tag : CommandTag)
    (r : Record) (p : Params) (c : ByteClass) (b : Byte) :
    AgreeingLinks (l.receive p c b) ((l.withCommand tag r).receive p c b) := by
  obtain hidle | hread := hp
  · by_cases hc : c = .start
    · subst hc
      exact Link.withCommand_agree (l := l.reArm) (.inr rfl) tag r
    · rw [Link.receive_of_idle hidle p hc, Link.receive_of_idle (l := l.withCommand tag r) hidle p hc]
      exact Link.withCommand_agree (.inl hidle) tag r
  · exact Link.receive_withCommand_of_readCommand hread tag r p c b

/-- A byte on created instances that agree leaves instances that agree. -/
theorem Link.Agree.receive {l l' : Link} (h : l.Agree l') (hb : l.bound = true) (p : Params) (c : ByteClass) (b : Byte) :
    AgreeingLinks (l.receive p c b) (l'.receive p c b) := by
  obtain rfl | ⟨hp, tag, r, rfl⟩ := h.of_bound hb
  · exact AgreeingLinks.refl _
  · exact Link.receive_withCommand_agree hp tag r p c b

/-- An instance not created drops every byte, so only a created one's class and byte must be the same (R99). -/
theorem Link.Agree.wire {l l' : Link} (h : l.Agree l') (p : Params) {c c' : ByteClass} {b b' : Byte}
    (hbyte : l.bound = true → c = c' ∧ b = b') : AgreeingLinks (l.wire p c b) (l'.wire p c' b') :=
  h.ifBound h fun hb => by
    obtain ⟨rfl, rfl⟩ := hbyte hb
    exact h.receive hb p c b

/-- An instruction on instances that agree ends alike. -/
theorem Link.Agree.onInstance {l l' : Link} (h : l.Agree l') (i : Instr) (p : Params) (k : Nat) :
    AgreeingLinks (onInstance i p k l) (onInstance i p k l') := by
  have ⟨hbound, _, htx, _⟩ := h
  induction i using instr_by_row with
  | create s u e =>
    simp only [Machine.onInstance, Link.create, ← hbound]
    split
    · rfl
    · split
      · exact (h.created _).respond _
      · rfl
  | rxByte b => exact h.wire p fun hb => ⟨by rw [h.markers_eq hb], rfl⟩
  | lastError => exact h.ifBound (h.respond _) fun hb => h.status_eq hb ▸ h.respond _
  | crcReset => exact h.ifBound (h.respond _) fun _ => (h.setTx _).respond _
  | crcUpdate b => exact h.ifBound (h.respond _) fun _ => htx ▸ (h.setTx _).respond _
  | crcValue =>
    refine h.ifBound (h.drawValue k) fun _ => ?_
    rw [← htx]
    cases l.tx with
    | none => rfl
    | some v => exact h.respond _
  | frame cap payload => exact h.ifBound (h.respond _) fun hb => h.markers_eq hb ▸ (h.setTx _).respond _
  | wire i hi =>
    obtain ⟨c, hc⟩ := onInstance_of_wireByte hi
    rw [hc, hc]
    exact h.wire p fun hb => ⟨rfl, by rw [h.markers_eq hb]⟩

/-! ## Agreement of two machines -/

/-- Lists that agree entry by entry agree at every index. -/
theorem forall₂_getElem? {α β : Type} {R : α → β → Prop} {xs : List α} {ys : List β} (h : List.Forall₂ R xs ys)
    (k : Nat) : Option.Rel R xs[k]? ys[k]? := by
  induction h generalizing k with
  | nil => exact .none
  | cons hxy _ ih =>
    cases k with
    | zero => exact .some hxy
    | succ k => exact ih k

/-- A write at the same index of entries that agree. -/
theorem forall₂_set {α β : Type} {R : α → β → Prop} {xs : List α} {ys : List β} (h : List.Forall₂ R xs ys) (k : Nat)
    {x : α} {y : β} (hxy : R x y) : List.Forall₂ R (xs.set k x) (ys.set k y) := by
  induction h generalizing k with
  | nil => exact .nil
  | cons hhead htail ih =>
    cases k with
    | zero => exact .cons hxy htail
    | succ k => exact .cons hhead (ih k)

/-- Two machines that agree have the same instances, and each agrees with its counterpart. -/
theorem State.Agree.link {s t : State} (h : s.Agree t) (k : Nat) :
    (s.links[k]? = none ∧ t.links[k]? = none) ∨
    ∃ l l', s.links[k]? = some l ∧ t.links[k]? = some l' ∧ l.Agree l' := by
  obtain ⟨-, -, -, hlinks⟩ := h
  have hk := forall₂_getElem? hlinks k
  generalize s.links[k]? = a, t.links[k]? = b at hk
  cases hk with
  | none => exact .inl ⟨rfl, rfl⟩
  | some hl => exact .inr ⟨_, _, rfl, rfl, hl⟩

theorem State.Agree.putLink {s t : State} (h : s.Agree t) {l l' : Link} (hl : l.Agree l') :
    (s.putLink l).Agree (t.putLink l') := by
  obtain ⟨hparams, hsel, hinput, hlinks⟩ := h
  refine ⟨hparams, hsel, hinput, ?_⟩
  rw [State.putLink_links, State.putLink_links, ← hsel]
  exact forall₂_set hlinks _ hl

theorem State.Agree.address {s t : State} (h : s.Agree t) (k : Nat) (q : List Input) :
    (s.address k q).Agree (t.address k q) := by
  obtain ⟨hparams, -, -, hlinks⟩ := h
  exact ⟨hparams, rfl, rfl, hlinks⟩

theorem AgreeingOutcomes.of_stop (st : Stop) : AgreeingOutcomes st.outcome st.outcome := by cases st <;> rfl

/-- The two ways two steps can end alike. -/
theorem AgreeingOutcomes.cases {o o' : StateOutcome} (h : AgreeingOutcomes o o') :
    (∃ s t, o = .next s ∧ o' = .next t ∧ s.Agree t) ∨ ∃ st : Stop, o = st.outcome ∧ o' = st.outcome := by
  match o, o' with
  | .next s, .next t => exact .inl ⟨s, t, rfl, rfl, h⟩
  | .fault r, .fault r' => cases h; exact .inr ⟨.fault r, rfl, rfl⟩
  | .refused r, .refused r' => cases h; exact .inr ⟨.refused r, rfl, rfl⟩

theorem State.Agree.putOutcome {s t : State} (h : s.Agree t) {o o' : LinkOutcome} (ho : AgreeingLinks o o') :
    AgreeingOutcomes (s.putOutcome o) (t.putOutcome o') := by
  cases o <;> cases o'
  case next.next => exact h.putLink ho
  case fault.fault => exact ho
  case refused.refused => exact ho
  all_goals exact False.elim ho

/-! ## Agreement through a step -/

/-- An instruction on machines that agree ends alike. -/
theorem State.Agree.exec {s t : State} (h : s.Agree t) (i : Instr) : AgreeingOutcomes (exec i s) (exec i t) := by
  have ⟨hparams, hsel, _⟩ := h
  obtain ⟨hs, ht⟩ | ⟨l, l', hs, ht, hl⟩ := h.link s.sel
  · rw [exec_eq_onLink, exec_eq_onLink, onLink, onLink, ← hsel, hs, ht]
    rfl
  · rw [exec_of_get hs, exec_of_get (hsel ▸ ht), ← hparams, ← hsel]
    exact h.putOutcome (hl.onInstance i s.params s.sel)

/-- What stands at the front of an input is read from the input and from markers that are specified. -/
theorem State.Agree.fetch_eq {s t : State} (h : s.Agree t) (x : Input) : fetch s x = fetch t x := by
  match x with
  | .op _ [] | .wire _ [] => rfl
  | .op k (b :: bytes) =>
    obtain ⟨hs, ht⟩ | ⟨l, l', hs, ht, -⟩ := h.link k
    · simp only [fetch, hs, ht]
    · simp only [fetch, hs, ht]
      cases decodeOp (b :: bytes) <;> rfl
  | .wire k (b :: more) =>
    obtain ⟨hs, ht⟩ | ⟨l, l', hs, ht, hl⟩ := h.link k
    · simp only [fetch, hs, ht]
    · simp only [fetch, hs, ht, hl.markers?_eq]

theorem State.Agree.attempt {s t : State} (h : s.Agree t) (x : Input) (before after : List Input) :
    AgreeingOutcomes (attempt s x before after) (attempt t x before after) := by
  unfold Machine.attempt
  rw [h.fetch_eq x]
  cases fetch t x with
  | nothing => exact h
  | refused r => exact AgreeingOutcomes.of_stop (.refused r)
  | instr i more => exact (h.address _ _).exec i

theorem State.Agree.settle {s t : State} (h : s.Agree t) (stops : List (Nat × Stop)) :
    AgreeingOutcomes (s.settle stops) (t.settle stops) := by
  unfold State.settle
  cases lowest stops with
  | none => exact h
  | some st => exact AgreeingOutcomes.of_stop st.2

/-- Machines that agree pass over the same inputs and run the same one. -/
theorem State.Agree.schedule {s t : State} (h : s.Agree t) (q before : List Input) (stops : List (Nat × Stop)) :
    AgreeingOutcomes (schedule s before stops q) (schedule t before stops q) := by
  induction q generalizing before stops with
  | nil => exact h.settle stops
  | cons x after ih =>
    cases hx : isStopped stops x.link with
    | true =>
      rw [schedule_cons_of_stopped hx, schedule_cons_of_stopped hx]
      exact ih _ _
    | false =>
      obtain ⟨s', t', hs, ht, h'⟩ | ⟨st, hs, ht⟩ := (h.attempt x before after).cases
      · rw [schedule_cons_of_next hx hs, schedule_cons_of_next hx ht]
        exact h'
      · rw [schedule_cons_of_stop hx hs, schedule_cons_of_stop hx ht]
        exact ih _ _

/-- Settles O48: agreement is carried through the first operation that completes, or the stop that is answered. -/
theorem unspecifiedRegistersAreNeverRead : Obligations.UnspecifiedRegistersAreNeverRead := by
  intro s t h
  have ⟨_, _, hinput, _⟩ := h
  rw [step, step, ← hinput]
  exact h.schedule _ [] []

end Sys2Proof.Machine
end

section
/-! SUPPORT. An instruction touches its instance only, the configuration is fixed by CREATE; reset, and the encodings. -/

namespace Sys2Proof.Machine

open Sys2Proof

/-! ## The instance and the rest -/

/-- Settles O42: an instruction is a function of the parameters, the instance's number and the instance. -/
theorem anOperationTouchesOnlyItsInstance : Obligations.AnOperationTouchesOnlyItsInstance := by
  intro i s t s' h
  refine ⟨exec_outsideKept h, fun hparams hsel hlink => ?_⟩
  obtain ⟨l, l', hl, hi, rfl⟩ := exec_next h
  have ht : t.links[t.sel]? = some l := hlink.trans hl
  refine ⟨t.putLink l', ?_, ?_⟩
  · rw [exec_of_get ht, hparams, hsel, hi, State.putOutcome_next]
  · rw [State.putLink_get l' t l ht, State.putLink_get l' s l hl]

/-- CREATE is the one instruction that writes the configuration, and a created instance refuses it. -/
theorem onInstance_sameConfig {i : Instr} {p : Params} {k : Nat} {l l' : Link} (hb : l.bound = true)
    (h : onInstance i p k l = .next l') : l.SameConfig l' := by
  obtain ⟨hu, -⟩ | hkept | ⟨-, c, b, h⟩ := onInstance_next h
  · simp [hb] at hu
  · exact hkept.1
  · exact (Link.receive_frame h).1

/-- No step makes an instance appear or vanish (R14). -/
theorem step_next_length {s s' : State} (h : step s = .next s') : s'.links.length = s.links.length := by
  obtain rfl | ⟨k, q, i, l, m, -, -, -, rfl⟩ := step_next h
  · rfl
  · simp

/-- Settles O44: the instance is still there after the step, and at most one instruction ran on it. -/
theorem markersAreFixedOnceCreated : Obligations.MarkersAreFixedOnceCreated := by
  intro s s' k l hstep hl hb
  have hk : k < s'.links.length := by
    rw [step_next_length hstep]
    exact (List.getElem?_eq_some_iff.mp hl).1
  refine ⟨s'.links[k], List.getElem?_eq_getElem hk, ?_⟩
  obtain hsame | ⟨i, m, hm, hi⟩ := step_next_link hstep (List.getElem?_eq_getElem hk)
  · rw [hl] at hsame
    rw [← Option.some.inj hsame]
    exact ⟨rfl, rfl, rfl, rfl⟩
  · rw [hl] at hm
    cases hm
    exact onInstance_sameConfig hb hi

/-! ## Reset -/

/-- Every instance of the machine after reset is as R30 says. -/
theorem eq_reset_of_mem_reset {l : Link} (h : l ∈ State.reset.links) : l = Link.reset := by
  obtain h | h := List.mem_cons.mp h
  · exact h
  · exact List.eq_of_mem_replicate h

/-- Settles O2: an instance after reset is unbound, and its phase and contexts are R30's. -/
theorem resetMeetsTheInvariant : Obligations.ResetMeetsTheInvariant := by
  intro l hl
  rw [eq_reset_of_mem_reset hl]
  exact ⟨nofun, fun _ => ⟨rfl, rfl, rfl⟩⟩

/-! ## Encodings -/

/-- A status byte is the status code's number (R55). -/
theorem Status.byte_eq (st : Status) : st.byte = BitVec.ofNat 8 st.code.toNat := by cases st <;> rfl

/-- A 16-bit value's bytes are its quotient and its remainder by 256 (R35). -/
theorem halfBytes_eq (v : Half) : halfBytes v = [BitVec.ofNat 8 (v.toNat / 256), BitVec.ofNat 8 v.toNat] := by
  have high : v.extractLsb' 8 8 = BitVec.ofNat 8 (v.toNat / 256) := by
    simp [BitVec.extractLsb', Nat.shiftRight_eq_div_pow]
  have low : v.extractLsb' 0 8 = BitVec.ofNat 8 v.toNat := by simp [BitVec.extractLsb']
  rw [halfBytes, high, low]

/-- Settles O34: the status is one byte, and every 16-bit value after it is laid out high byte first. -/
theorem responsesAreLaidOutHighByteFirst : Obligations.ResponsesAreLaidOutHighByteFirst := by
  refine ⟨rfl, fun st => ?_, fun st v => ?_, fun st m out => ?_⟩
  · rw [Response.toBytes, Status.byte_eq]
  · rw [Response.toBytes, Status.byte_eq, halfBytes_eq]
  · rw [Response.toBytes, Status.byte_eq, halfBytes_eq]
    rfl

/-- Settles O49: by the five phases, the two commands, and `Idle` after reset (R30). -/
theorem phaseAndCommandHaveTheirCodes : Obligations.PhaseAndCommandHaveTheirCodes := by
  refine ⟨rfl, fun ph => ?_, rfl, fun l hl => ?_⟩
  · cases ph <;> decide
  · rw [eq_reset_of_mem_reset hl]
    rfl

end Sys2Proof.Machine
end

section
/-! SUPPORT. What an input's first operation does to its own instance, and how the operations of different instances commute. -/

namespace Sys2Proof.Machine

open Sys2Proof

/-! ## Instructions on different instances -/

/-- An instruction addressed to an instance writes what it makes of that instance. -/
theorem exec_of_sel {i : Instr} {s : State} {a : Nat} {l l' : Link} (hl : s.links[a]? = some l)
    (hi : onInstance i s.params a l = .next l') :
    exec i { s with sel := a } = .next ({ s with sel := a }.putLink l') := by
  rw [exec_of_get (s := { s with sel := a }) hl]
  exact congrArg (State.putOutcome _) hi

/-- Settles O41: each instruction reads and writes its own instance, so the two writes can be made in either order. -/
theorem operationsOnDifferentInstancesCommute : Obligations.OperationsOnDifferentInstancesCommute := by
  intro s s1 s2 i j a b hab hi hj
  obtain ⟨la, la', hla, hia, rfl⟩ := exec_next hi
  obtain ⟨lb, lb', hlb, hjb, rfl⟩ := exec_next hj
  have hlb' : s.links[b]? = some lb := (List.getElem?_set_ne hab).symm.trans hlb
  have hla' : ({ s with sel := b }.putLink lb').links[a]? = some la := (List.getElem?_set_ne hab.symm).trans hla
  exact ⟨_, _, exec_of_sel hlb' hjb, exec_of_sel hla' hia, List.set_comm lb' la' hab.symm, rfl, rfl⟩

/-! ## The first operation of an input -/

/-- The first operation of `x` completes: it leaves `more` of its input and makes its instance `l'`. -/
def Completes (s : State) (x more : Input) (l' : Link) : Prop :=
  ∃ i l, fetch s x = .instr i more ∧ s.links[x.link]? = some l ∧ onInstance i s.params x.link l = .next l'

/-- The first operation of `x` ends in the stop `st`, whatever waits around it. -/
def StopsWith (s : State) (x : Input) (st : Stop) : Prop := ∀ before after, attempt s x before after = st.outcome

/-- Two machines with the same parameters and the same instance `k`. -/
abbrev State.SameAt (k : Nat) (s t : State) : Prop := s.params = t.params ∧ s.links[k]? = t.links[k]?

/-- A write to another instance, whatever is addressed and waiting, leaves instance `j` the same. -/
theorem State.sameAt_putLink {j k : Nat} (h : j ≠ k) (s : State) (q : List Input) (l : Link) :
    State.SameAt j s ((s.address k q).putLink l) :=
  ⟨rfl, (List.getElem?_set_ne h.symm).symm⟩

/-- An input that still holds a byte begins with an operation that stops or completes. -/
theorem stopsWith_or_completes (s : State) {x : Input} (h : x.spent = false) :
    (∃ st, StopsWith s x st) ∨ ∃ more l', Completes s x more l' := by
  obtain ⟨r, hf⟩ | ⟨i, more, l, hf, -, hl⟩ := fetch_cases s h
  · exact .inl ⟨.refused r, attempt_of_refused hf⟩
  · cases ho : onInstance i s.params x.link l with
    | fault r => exact .inl ⟨.fault r, fun _ _ => by rw [attempt_of_instr hf hl, ho]; rfl⟩
    | refused r => exact .inl ⟨.refused r, fun _ _ => by rw [attempt_of_instr hf hl, ho]; rfl⟩
    | next l' => exact .inr ⟨more, l', i, l, hf, hl, ho⟩

theorem Completes.attempt {s : State} {x more : Input} {l' : Link} (h : Completes s x more l') (before after : List Input) :
    attempt s x before after = .next ((s.address x.link (waiting (before ++ more :: after))).putLink l') := by
  obtain ⟨i, l, hf, hl, ho⟩ := h
  rw [attempt_of_instr hf hl, ho, State.putOutcome_next]

/-- An operation is read from its input and its own instance. -/
theorem fetch_eq_of_link {s t : State} {x : Input} (h : s.links[x.link]? = t.links[x.link]?) : fetch s x = fetch t x := by
  match x with
  | .op _ [] | .wire _ [] => rfl
  | .op k (b :: bytes) | .wire k (b :: bytes) =>
    rw [Input.link] at h
    simp only [fetch, h]

theorem Completes.congr {s t : State} {x more : Input} {l' : Link} (hst : State.SameAt x.link s t)
    (h : Completes s x more l') : Completes t x more l' := by
  obtain ⟨i, l, hf, hl, ho⟩ := h
  exact ⟨i, l, fetch_eq_of_link hst.2 ▸ hf, hst.2 ▸ hl, hst.1 ▸ ho⟩

/-- An operation on the addressed instance stops alike on two machines with the same addressed instance. -/
theorem onLink_stop_congr {s t : State} (h : s.links[s.sel]? = t.links[t.sel]?) {f : Link → LinkOutcome} {st : Stop}
    (hs : onLink s f = st.outcome) : onLink t f = st.outcome := by
  cases st with
  | fault r => exact onLink_eq_fault.mpr (h ▸ onLink_eq_fault.mp hs)
  | refused r => exact onLink_eq_refused.mpr (h ▸ onLink_eq_refused.mp hs)

theorem StopsWith.congr {s t : State} {x : Input} {st : Stop} (hst : State.SameAt x.link s t)
    (h : StopsWith s x st) : StopsWith t x st := by
  intro before after
  have hs := h before after
  unfold Machine.attempt at hs ⊢
  rw [← fetch_eq_of_link hst.2]
  cases hf : fetch s x with
  | nothing => exact absurd (by simpa only [hf] using hs.symm) (Stop.outcome_ne_next st s)
  | refused r => simpa only [hf] using hs
  | instr i more =>
    simp only [hf, exec_eq_onLink] at hs ⊢
    rw [State.address_params, State.address_sel, ← hst.1]
    exact onLink_stop_congr hst.2 hs

/-- A single operation leaves nothing of its input. -/
theorem Completes.spent_of_single {s : State} {x more : Input} {l' : Link} (h : Completes s x more l') (hx : x.single) :
    more.spent = true := by
  obtain ⟨i, l, hf, hl, -⟩ := h
  match x with
  | .op _ [] | .wire _ [] => cases hf
  | .op k (b :: bytes) =>
    simp only [fetch, show s.links[k]? = some l from hl] at hf
    cases hd : decodeOp (b :: bytes) with
    | error e => simp [hd] at hf
    | ok d =>
      simp only [hd] at hf
      cases hf
      rw [hx _ _ hd]
      rfl
  | .wire k (b :: bytes) =>
    simp only [fetch, show s.links[k]? = some l from hl] at hf
    cases hf
    obtain rfl : bytes = [] := List.eq_nil_of_length_eq_zero (by simpa [Input.single] using hx)
    rfl

/-! ## What a step reads of what is addressed and waiting -/

theorem attempt_address {s : State} {x : Input} (hx : x.spent = false) (k : Nat) (i before after : List Input) :
    attempt (s.address k i) x before after = attempt s x before after := by
  have hf : fetch (s.address k i) x = fetch s x := fetch_eq_of_link rfl
  obtain ⟨r, hs⟩ | ⟨j, more, l, hs, -, -⟩ := fetch_cases s hx
  · rw [attempt_of_refused hs, attempt_of_refused (hf.trans hs)]
  · simp only [attempt, hf, hs]
    rfl

/-- With something to run, or stopped instances, the schedule reads the parameters and the instances alone. -/
theorem schedule_address (s : State) (k : Nat) (i q before : List Input) {stops : List (Nat × Stop)}
    (hq : ∀ x ∈ q, x.spent = false) (hne : q ≠ [] ∨ stops ≠ []) :
    schedule (s.address k i) before stops q = schedule s before stops q := by
  induction q generalizing before stops with
  | nil =>
    obtain ⟨st, rest, rfl⟩ := List.exists_cons_of_ne_nil (hne.resolve_left (· rfl))
    simp only [schedule, State.settle]
    cases hl : lowest (st :: rest) with
    | none => exact absurd hl (lowest_cons_ne_none st rest)
    | some _ => rfl
  | cons x q ih =>
    have hx : x.spent = false := hq x (by simp)
    have hq' : ∀ y ∈ q, y.spent = false := fun y hy => hq y (by simp [hy])
    cases hs : isStopped stops x.link with
    | true =>
      rw [schedule_cons_of_stopped hs, schedule_cons_of_stopped hs]
      exact ih _ hq' (.inr fun h0 => by simp [h0, isStopped] at hs)
    | false =>
      obtain ⟨st, hst⟩ | ⟨more, l', hc⟩ := stopsWith_or_completes s hx
      · rw [schedule_cons_of_stop hs (hst _ _), schedule_cons_of_stop hs ((attempt_address hx ..).trans (hst _ _))]
        exact ih _ hq' (.inr (by simp))
      · rw [schedule_cons_of_next hs (hc.attempt _ _),
          schedule_cons_of_next hs ((attempt_address hx ..).trans (hc.attempt _ _))]

theorem not_spent_of_mem_waiting {x : Input} {q : List Input} (h : x ∈ waiting q) : x.spent = false := by
  simpa using (List.mem_filter.mp h).2

/-- Whatever is addressed, a step is the schedule of what is waiting. -/
theorem step_address (s : State) (k : Nat) {q : List Input} (h : waiting q ≠ []) :
    step (s.address k q) = schedule s [] [] (waiting q) :=
  schedule_address s k q _ [] (fun _ => not_spent_of_mem_waiting) (.inl h)

/-- With nothing waiting a machine holds its state (R116). -/
theorem run_of_nothing_waiting {s : State} (h : waiting s.input = []) (n : Nat) : run n s = .next s := by
  induction n with
  | zero => rfl
  | succ n ih => rw [run_of_next (by rw [step, h]; rfl), ih]

/-- Runs whose first steps are the same are the same. -/
theorem run_congr_step {s t : State} (h : step s = step t) (n : Nat) : run (n + 1) s = run (n + 1) t := by
  simp only [run, h]

/-- A run whose first step stops ends in that stop. -/
theorem run_of_stop {s : State} {st : Stop} (h : step s = st.outcome) (n : Nat) : run (n + 1) s = st.outcome := by
  cases st <;> simp only [run, h, Stop.outcome]

/-- An operation at the front of what is waiting that completes is the step. -/
theorem step_of_completes {s : State} {x more : Input} {tail : List Input} {l' : Link} (hw : waiting s.input = x :: tail)
    (h : Completes s x more l') : step s = .next ((s.address x.link (waiting (more :: tail))).putLink l') := by
  rw [step, hw]
  exact schedule_cons_of_next rfl (h.attempt [] tail)

end Sys2Proof.Machine
end

section
/-! SUPPORT. The order in which the operations of two instances were issued cannot be seen, whether they complete or stop. -/

namespace Sys2Proof.Machine

open Sys2Proof

theorem SameInstances.refl (o : StateOutcome) : SameInstances o o := by
  cases o with
  | next s => exact ⟨rfl, rfl⟩
  | fault r => rfl
  | refused r => rfl

/-! ## Both operations stop -/

/-- Two orders in which the same instances have stopped: the same ones are stopped, and the same stop is answered. -/
def SameStops (stops stops' : List (Nat × Stop)) : Prop :=
  lowest stops = lowest stops' ∧ ∀ k, isStopped stops k = isStopped stops' k

theorem SameStops.cons {stops stops' : List (Nat × Stop)} (h : SameStops stops stops') (st : Nat × Stop) :
    SameStops (st :: stops) (st :: stops') :=
  ⟨by rw [lowest, lowest, h.1], fun k => by rw [isStopped_cons, isStopped_cons, h.2]⟩

theorem SameStops.swap {st st' : Nat × Stop} (h : st.1 ≠ st'.1) : SameStops [st, st'] [st', st] := by
  refine ⟨?_, fun k => by simp [isStopped, Bool.or_comm]⟩
  simp only [lowest]
  obtain hlt | hlt := Nat.lt_or_gt_of_ne h
  · rw [if_pos hlt, if_neg hlt.asymm]
  · rw [if_neg hlt.asymm, if_pos hlt]

/-- Two orders of stops, with `p` and `p'` passed over, are scheduled alike: the same stop is answered, or the same operation completes
on an instance that goes on, and `p` and `p'` still wait at the front. -/
theorem SameStops.schedule {stops stops' : List (Nat × Stop)} (h : SameStops stops stops') (hne : stops ≠ [])
    (s : State) (p p' : List Input) (q r : List Input) (hq : ∀ z ∈ q, z.spent = false) :
    (∃ st : Stop, schedule s (p ++ r) stops q = st.outcome ∧ schedule s (p' ++ r) stops' q = st.outcome) ∨
    ∃ k l' rest, isStopped stops k = false ∧
      schedule s (p ++ r) stops q = .next ((s.address k (waiting (p ++ rest))).putLink l') ∧
      schedule s (p' ++ r) stops' q = .next ((s.address k (waiting (p' ++ rest))).putLink l') := by
  induction q generalizing stops stops' r with
  | nil =>
    obtain ⟨st, rest, rfl⟩ := List.exists_cons_of_ne_nil hne
    simp only [Machine.schedule, State.settle, ← h.1]
    cases hl : lowest (st :: rest) with
    | none => exact absurd hl (lowest_cons_ne_none st rest)
    | some st' => exact .inl ⟨st'.2, rfl, rfl⟩
  | cons z q ih =>
    have hq' : ∀ y ∈ q, y.spent = false := fun y hy => hq y (by simp [hy])
    cases hs : isStopped stops z.link with
    | true =>
      rw [schedule_cons_of_stopped hs, schedule_cons_of_stopped (h.2 z.link ▸ hs), List.append_assoc, List.append_assoc]
      exact ih h hne _ hq'
    | false =>
      have hs' : isStopped stops' z.link = false := h.2 z.link ▸ hs
      obtain ⟨st, hst⟩ | ⟨more, l', hc⟩ := stopsWith_or_completes s (hq z (by simp))
      · rw [schedule_cons_of_stop hs (hst _ _), schedule_cons_of_stop hs' (hst _ _), List.append_assoc, List.append_assoc]
        obtain hstop | ⟨k, l', rest, hk, hnext⟩ := ih (h.cons (z.link, st)) (by simp) (r ++ [z]) hq'
        · exact .inl hstop
        · rw [isStopped_cons, Bool.or_eq_false_iff] at hk
          exact .inr ⟨k, l', rest, hk.2, hnext⟩
      · refine .inr ⟨z.link, l', r ++ more :: q, hs, ?_, ?_⟩
        · rw [schedule_cons_of_next hs (hc.attempt _ _), List.append_assoc]
        · rw [schedule_cons_of_next hs' (hc.attempt _ _), List.append_assoc]

/-- Two operations at the front that stop are passed over. -/
theorem step_of_two_stops {s : State} {x y : Input} {sx sy : Stop} (hne : x.link ≠ y.link) (hx : x.spent = false)
    (hy : y.spent = false) (hsx : StopsWith s x sx) (hsy : StopsWith s y sy) (k : Nat) (q : List Input) :
    step (s.address k (x :: y :: q)) = schedule s [x, y] [(y.link, sy), (x.link, sx)] (waiting q) := by
  have hw : waiting (x :: y :: q) = x :: y :: waiting q := by
    rw [waiting_cons_of_not_spent hx, waiting_cons_of_not_spent hy]
  rw [step_address s k (by simp [hw]), hw, schedule_cons_of_stop rfl (hsx _ _),
    schedule_cons_of_stop (by simp [isStopped, hne]) (hsy _ _)]
  rfl

/-- Where both operations stop, any number of steps of the other instances ends alike. -/
theorem run_swap_of_stops {x y : Input} {sx sy : Stop} (hne : x.link ≠ y.link) (hx : x.spent = false)
    (hy : y.spent = false) (n : Nat) {s : State} (hsx : StopsWith s x sx) (hsy : StopsWith s y sy) (k : Nat)
    (q : List Input) :
    SameInstances (run n (s.address k (x :: y :: q))) (run n (s.address k (y :: x :: q))) := by
  induction n generalizing s k q with
  | zero => exact ⟨rfl, rfl⟩
  | succ n ih =>
    have hxy := step_of_two_stops hne hx hy hsx hsy k q
    have hyx := step_of_two_stops hne.symm hy hx hsy hsx k q
    have hswap : SameStops [(y.link, sy), (x.link, sx)] [(x.link, sx), (y.link, sy)] := SameStops.swap hne.symm
    obtain ⟨st, h, h'⟩ | ⟨j, l', rest, hj, h, h'⟩ :=
      hswap.schedule (by simp) s [x, y] [y, x] (waiting q) [] fun _ => not_spent_of_mem_waiting
    · rw [run_of_stop (hxy.trans h), run_of_stop (hyx.trans h')]
      exact SameInstances.refl _
    · have hjx : x.link ≠ j := fun h => by simp [isStopped, h] at hj
      have hjy : y.link ≠ j := fun h => by simp [isStopped, h] at hj
      rw [run_of_next (hxy.trans h), run_of_next (hyx.trans h')]
      simp only [List.cons_append, List.nil_append, waiting_cons_of_not_spent, hx, hy]
      exact ih (s := (s.address j []).putLink l') (hsx.congr (s.sameAt_putLink hjx [] l'))
        (hsy.congr (s.sameAt_putLink hjy [] l')) j (waiting rest)

/-! ## At least one operation completes -/

/-- Where one operation stops and the other completes, the first step is the same in both orders. -/
theorem step_swap_of_stop_of_completes {s : State} {x y more : Input} {st : Stop} {l' : Link} (hne : x.link ≠ y.link)
    (hx : x.spent = false) (hy : y.spent = false) (hsx : StopsWith s x st) (hcy : Completes s y more l')
    (hmore : more.spent = true) (k : Nat) (q : List Input) :
    step (s.address k (x :: y :: q)) = step (s.address k (y :: x :: q)) := by
  have hxy : waiting (x :: y :: q) = x :: y :: waiting q := by
    rw [waiting_cons_of_not_spent hx, waiting_cons_of_not_spent hy]
  have hyx : waiting (y :: x :: q) = y :: x :: waiting q := by
    rw [waiting_cons_of_not_spent hy, waiting_cons_of_not_spent hx]
  rw [step_address s k (by simp [hxy]), step_address s k (by simp [hyx]), hxy, hyx,
    schedule_cons_of_stop rfl (hsx _ _), schedule_cons_of_next (by simp [isStopped, hne]) (hcy.attempt _ _),
    schedule_cons_of_next rfl (hcy.attempt _ _)]
  simp [waiting, hmore, hx]

/-- Where both operations complete, two steps make both writes. -/
theorem run_two_of_completes {s : State} {x y more more' : Input} {l l' : Link} {q : List Input}
    (hi : s.input = x :: y :: q) (hne : x.link ≠ y.link) (hx : x.spent = false) (hy : y.spent = false)
    (hcx : Completes s x more l) (hmore : more.spent = true) (hcy : Completes s y more' l') :
    ∃ t, run 2 s = .next t ∧ t.params = s.params ∧ t.links = (s.links.set x.link l).set y.link l' := by
  have hw : waiting s.input = x :: y :: waiting q := by
    rw [hi, waiting_cons_of_not_spent hx, waiting_cons_of_not_spent hy]
  have hcy' := hcy.congr (s.sameAt_putLink hne.symm (waiting (more :: y :: waiting q)) l)
  have hw' : waiting ((s.address x.link (waiting (more :: y :: waiting q))).putLink l).input = y :: waiting q := by
    rw [State.putLink_input, State.address_input, waiting_waiting, waiting_cons_of_spent hmore,
      waiting_cons_of_not_spent hy, waiting_waiting]
  exact ⟨_, (run_of_next (step_of_completes hw hcx) 1).trans (run_of_next (step_of_completes hw' hcy') 0), rfl, rfl⟩

/-! ## The statement -/

/-- Inputs that leave the same waiting run alike. -/
theorem run_sameInstances_of_waiting {s : State} {q q' : List Input} (h : waiting q = waiting q') (k n : Nat) :
    SameInstances (run n (s.address k q)) (run n (s.address k q')) := by
  by_cases hq : waiting q = []
  · rw [run_of_nothing_waiting hq, run_of_nothing_waiting (h ▸ hq)]
    exact ⟨rfl, rfl⟩
  · cases n with
    | zero => exact ⟨rfl, rfl⟩
    | succ n =>
      have hstep : step (s.address k q) = step (s.address k q') := by
        rw [step_address s k hq, step_address s k (h ▸ hq), h]
      rw [run_congr_step hstep]
      exact SameInstances.refl _

/-- Settles O51: a spent input is not waiting; two completions commute; a stop is passed over to the other's completion; and of two
stops neither order shows while other instances go on. -/
theorem interleavingCannotBeSeen : Obligations.InterleavingCannotBeSeen := by
  intro s x y rest hne hx hy
  change SameInstances (run 2 (s.address s.sel (x :: y :: rest))) (run 2 (s.address s.sel (y :: x :: rest)))
  cases hsx : x.spent with
  | true => exact run_sameInstances_of_waiting (by simp [waiting, List.filter_cons, hsx]) s.sel 2
  | false =>
  cases hsy : y.spent with
  | true => exact run_sameInstances_of_waiting (by simp [waiting, List.filter_cons, hsy]) s.sel 2
  | false =>
  obtain ⟨stx, hstx⟩ | ⟨mx, lx, hcx⟩ := stopsWith_or_completes s hsx
  · obtain ⟨sty, hsty⟩ | ⟨my, ly, hcy⟩ := stopsWith_or_completes s hsy
    · exact run_swap_of_stops hne hsx hsy 2 hstx hsty s.sel rest
    · rw [run_congr_step
        (step_swap_of_stop_of_completes hne hsx hsy hstx hcy (hcy.spent_of_single hy) s.sel rest)]
      exact SameInstances.refl _
  · obtain ⟨sty, hsty⟩ | ⟨my, ly, hcy⟩ := stopsWith_or_completes s hsy
    · rw [run_congr_step
        (step_swap_of_stop_of_completes hne.symm hsy hsx hsty hcx (hcx.spent_of_single hx) s.sel rest)]
      exact SameInstances.refl _
    · have anyInput (q : List Input) {z more : Input} {l' : Link} (h : Completes s z more l') :
          Completes (s.address s.sel q) z more l' := h.congr ⟨rfl, rfl⟩
      obtain ⟨t, ht, hparams, hlinks⟩ := run_two_of_completes (q := rest) rfl hne hsx hsy
        (anyInput _ hcx) (hcx.spent_of_single hx) (anyInput _ hcy)
      obtain ⟨t', ht', hparams', hlinks'⟩ := run_two_of_completes (q := rest) rfl hne.symm hsy hsx
        (anyInput _ hcy) (hcy.spent_of_single hy) (anyInput _ hcx)
      rw [ht, ht']
      exact ⟨hparams.trans hparams'.symm, by rw [hlinks, hlinks']; exact List.set_comm lx ly hne⟩

end Sys2Proof.Machine
end

section
/-! SUPPORT. How received bytes were cut into inputs cannot be seen (R41): each form hands the same bytes to the parser one by one. -/

namespace Sys2Proof.Machine

open Sys2Proof

/-! ## Received bytes always complete -/

/-- A received byte never takes a receive CRC away. -/
theorem Link.receive_keeps_rx {l l' : Link} {p : Params} {c : ByteClass} {b : Byte} (h : l.receive p c b = .next l')
    (hrx : l.rx ≠ none) : l'.rx ≠ none := by
  cases c with
  | start => cases h; simp
  | sep =>
    cases h
    unfold Link.onSep Link.selectCommand Link.commitMotor Link.commitPid
    cases l.phase <;> simp only <;> (repeat' split) <;> simpa using hrx
  | hex d =>
    cases h
    obtain ⟨-, -, -, -, -, -, hiff, -⟩ := l.onHex_sameShape b d
    exact mt hiff.mp hrx
  | other =>
    cases h
    unfold Link.onOther
    cases l.phase <;> exact hrx
  | fin =>
    simp only [Link.receive] at h
    unfold Link.onEnd at h
    cases hphase : l.phase with
    | idle | readCommand | readMotorValues | readPidAngle => rw [hphase] at h; cases h; exact hrx
    | validateChecksum =>
      obtain ⟨v, hv⟩ := Option.ne_none_iff_exists'.mp hrx
      simp only [hphase, hv] at h
      cases h
      unfold Link.endFrame
      cases checksumMatches l.acc v <;> exact hrx

/-- R28 (c), asked of a created instance alone. -/
abbrev Link.HasCrcInFrame (l : Link) : Prop := l.bound = true → l.ReadingHasCrc

/-- A received byte keeps R28 (c): in `Idle` only START does anything, and in a frame the receive CRC stays. -/
theorem Link.receive_hasCrcInFrame {l l' : Link} {p : Params} {c : ByteClass} {b : Byte} (hb : l.bound = true)
    (hc : l.HasCrcInFrame) (h : l.receive p c b = .next l') : l'.HasCrcInFrame := by
  intro _ hphase'
  by_cases hphase : l.phase = .idle
  · by_cases hstart : c = .start
    · subst hstart; cases h; simp
    · rw [Link.receive_of_idle hphase p hstart] at h
      cases h
      exact absurd hphase hphase'
  · exact Link.receive_keeps_rx h (hc hb hphase)

/-- RX_BYTE completes wherever R28 (c) holds, and keeps it. -/
theorem Link.rxByte_completes {l : Link} (hc : l.HasCrcInFrame) (p : Params) (b : Byte) :
    ∃ l', l.rxByte p b = .next l' ∧ l'.HasCrcInFrame := by
  unfold Link.rxByte
  cases hb : l.bound with
  | false => exact ⟨l, Link.wire_of_unbound hb .., hc⟩
  | true =>
    rw [Link.wire_of_bound hb]
    cases ho : l.receive p (classify l.markers b) b with
    | next l' => exact ⟨l', rfl, Link.receive_hasCrcInFrame hb hc ho⟩
    | fault r =>
      obtain ⟨-, hphase, hrx, -⟩ := Link.receive_eq_fault.mp ho
      exact absurd hrx (hc hb (by simp [hphase]))
    | refused r => exact absurd ho Link.receive_ne_refused

/-- A byte string completes wherever R28 (c) holds. -/
theorem Link.feed_completes {l : Link} (hc : l.HasCrcInFrame) (p : Params) (bytes : List Byte) :
    ∃ l', l.feed p bytes = .next l' := by
  induction bytes generalizing l with
  | nil => exact ⟨l, rfl⟩
  | cons b bytes ih =>
    obtain ⟨l1, h1, hc1⟩ := Link.rxByte_completes hc p b
    rw [Link.feed_cons_of_next h1]
    exact ih hc1

/-- A byte string that completes does so byte by byte. -/
theorem Link.feed_cons_eq_next {p : Params} {l l' : Link} {b : Byte} {bytes : List Byte}
    (h : l.feed p (b :: bytes) = .next l') : ∃ l1, l.rxByte p b = .next l1 ∧ l1.feed p bytes = .next l' := by
  cases ho : l.rxByte p b with
  | next l1 => exact ⟨l1, rfl, Link.feed_cons_of_next ho bytes ▸ h⟩
  | fault r => simp [Link.feed, ho] at h
  | refused r => simp [Link.feed, ho] at h

/-! ## Inputs that hand over a byte string -/

/-- The first operation of `x` does what RX_BYTE of `b` does, and leaves `more`. -/
def HandsOver (x : Input) (b : Byte) (more : Input) : Prop :=
  ∀ (s : State) (l l' : Link), s.links[x.link]? = some l → l.rxByte s.params b = .next l' → Completes s x more l'

theorem handsOver_wire (k : Nat) (b : Byte) (bytes : List Byte) : HandsOver (.wire k (b :: bytes)) b (.wire k bytes) := by
  intro s l l' hl h
  rw [Input.link] at hl
  exact ⟨decodeWire l.markers? b, l, by simp only [fetch, hl], hl, by rw [onInstance_decodeWire, h]⟩

theorem handsOver_rxByte (k : Nat) (b : Byte) (bytes : List Byte) :
    HandsOver (.op k (0x02#8 :: b :: bytes)) b (.op k bytes) := by
  intro s l l' hl h
  have hd : decodeOp (0x02#8 :: b :: bytes) = .ok (.rxByte b, bytes) := rfl
  rw [Input.link] at hl
  exact ⟨.rxByte b, l, by simp only [fetch, hl, hd], hl, h⟩

/-- The inputs `q` hand a byte string to instance `k`, byte by byte, and then leave `rest` waiting. -/
inductive Delivers (k : Nat) (rest : List Input) : List Byte → List Input → Prop
  | done {q : List Input} (hw : waiting q = waiting rest) : Delivers k rest [] q
  | byte {b : Byte} {bytes : List Byte} {x more : Input} {tail q : List Input} (hw : waiting q = x :: tail)
      (hk : x.link = k) (hx : HandsOver x b more) (htail : Delivers k rest bytes (more :: tail)) :
      Delivers k rest (b :: bytes) q

variable {k : Nat} {rest : List Input}

theorem Delivers.congr {bytes : List Byte} {q q' : List Input} (h : Delivers k rest bytes q) (hq : waiting q' = waiting q) :
    Delivers k rest bytes q' := by
  cases h with
  | done hw => exact .done (hq.trans hw)
  | byte hw hk hx htail => exact .byte (hq.trans hw) hk hx htail

/-- A piece of received bytes in front. -/
theorem Delivers.wire_append (a : List Byte) {b : List Byte} {q : List Input} (h : Delivers k rest b q) :
    Delivers k rest (a ++ b) (.wire k a :: q) := by
  induction a with
  | nil => exact h.congr (waiting_wire_nil k q)
  | cons x a ih =>
    exact .byte (waiting_wire_cons k x a q) rfl (handsOver_wire k x a) (ih.congr (waiting_cons_waiting _ q))

theorem Delivers.wire (k : Nat) (rest : List Input) (a : List Byte) : Delivers k rest a (.wire k a :: rest) := by
  simpa using Delivers.wire_append a (.done (k := k) (rest := rest) rfl)

/-- One RX_BYTE operation per byte. -/
theorem Delivers.rxBytes (k : Nat) (rest : List Input) (a : List Byte) :
    Delivers k rest a (.op k (a.flatMap fun x => [0x02#8, x]) :: rest) := by
  induction a with
  | nil => exact .done (waiting_op_nil k rest)
  | cons x a ih =>
    exact .byte (waiting_op_cons ..) rfl (handsOver_rxByte k x _) (ih.congr (waiting_cons_waiting _ rest))

/-- As many steps as there are bytes feed them to their instance and leave the rest waiting. -/
theorem Delivers.run_address {bytes : List Byte} {q : List Input} (h : Delivers k rest bytes q) {s : State} {l l' : Link}
    (hl : s.links[k]? = some l) (hf : l.feed s.params bytes = .next l') :
    run bytes.length (s.address k (waiting q)) = .next ((s.address k (waiting rest)).putLink l') := by
  induction h generalizing s l with
  | done hw =>
    cases hf
    rw [hw, State.putLink_self l' (s.address k (waiting rest)) hl]
    rfl
  | @byte b bytes x more tail q hw hk hx _ ih =>
    subst hk
    obtain ⟨l1, h1, hf⟩ := Link.feed_cons_eq_next hf
    have hstep := step_of_completes (s := s.address x.link (waiting q)) ((waiting_waiting q).trans hw) (hx _ l l1 hl h1)
    rw [List.length_cons, run_of_next hstep]
    refine (ih (s := (s.address x.link []).putLink l1) (State.putLink_get l1 _ l hl) hf).trans ?_
    simp [State.putLink, State.address]

/-- So it is from any state those inputs stand in, if there is a byte at all. -/
theorem Delivers.run {bytes : List Byte} {q : List Input} (h : Delivers k rest bytes q) (hne : bytes ≠ []) {s : State}
    {l l' : Link} (hl : s.links[k]? = some l) (hf : l.feed s.params bytes = .next l') :
    run bytes.length { s with input := q } = .next ((s.address k (waiting rest)).putLink l') := by
  rw [← h.run_address hl hf]
  cases h with
  | done hw => exact absurd rfl hne
  | byte hw hk hx htail =>
    have hq : waiting q ≠ [] := by simp [hw]
    refine run_congr_step ?_ _
    rw [step_address s k (by rwa [waiting_waiting]), waiting_waiting]
    exact step_address s s.sel hq

/-- Settles O36: the three forms hand over the same bytes, and fed to an instance with R28 (c) these always complete. -/
theorem chunkingCannotBeSeen : Obligations.ChunkingCannotBeSeen := by
  intro s k l a b rest hl hc hne
  obtain ⟨l', hf⟩ := Link.feed_completes hc s.params (a ++ b)
  have hwhole := (Delivers.wire k rest (a ++ b)).run hne hl hf
  have hpieces := (Delivers.wire_append a (Delivers.wire k rest b)).run hne hl hf
  have hsingle := (Delivers.rxBytes k rest (a ++ b)).run hne hl hf
  exact ⟨hwhole.trans hpieces.symm, hwhole.trans hsingle.symm⟩

end Sys2Proof.Machine
end

section
/-! SUPPORT. A whole frame through the parser: each field is digits and the byte that ends it, and commits the number its digits
stand for. A motor frame and a PID frame differ only in how a committed number is stored. -/

namespace Sys2Proof.Machine

open Sys2Proof

/-! ## The classes of a frame's bytes -/

/-- What legal markers are (R97): pairwise distinct, and none of them a digit. -/
theorem Markers.legal_iff {m : Markers} : m.legal = true ↔ m.start ≠ m.sep ∧ m.start ≠ m.fin ∧ m.sep ≠ m.fin ∧
    isHex m.start = false ∧ isHex m.sep = false ∧ isHex m.fin = false := by
  simp [Markers.legal, and_assoc]

/-- Under legal markers a hex digit is none of them. -/
theorem Markers.ne_of_isHex {m : Markers} (hm : m.legal = true) {b : Byte} (hb : isHex b = true) :
    b ≠ m.start ∧ b ≠ m.sep ∧ b ≠ m.fin := by
  obtain ⟨-, -, -, hstart, hsep, hfin⟩ := Markers.legal_iff.mp hm
  refine ⟨?_, ?_, ?_⟩ <;> (rintro rfl; simp_all)

theorem classify_start (m : Markers) : classify m m.start = .start := by simp [classify]

theorem classify_sep {m : Markers} (hm : m.legal = true) : classify m m.sep = .sep := by
  obtain ⟨h, -⟩ := Markers.legal_iff.mp hm
  simp [classify, h.symm]

theorem classify_fin {m : Markers} (hm : m.legal = true) : classify m m.fin = .fin := by
  obtain ⟨-, h1, h2, -⟩ := Markers.legal_iff.mp hm
  simp [classify, h1.symm, h2.symm]

theorem classify_of_isHex {m : Markers} (hm : m.legal = true) {b : Byte} (hb : isHex b = true) :
    classify m b = .hex ((hexVal? b).getD 0) := by
  obtain ⟨h1, h2, h3⟩ := Markers.ne_of_isHex hm hb
  obtain ⟨d, hd⟩ := hexVal?_of_isHex hb
  simp [classify, h1, h2, h3, hd]

/-- A byte of a known class on a bound instance. -/
theorem Link.rxByte_of_classify {l : Link} (hb : l.bound = true) (p : Params) {b : Byte} {c : ByteClass}
    (hc : classify l.markers b = c) : l.rxByte p b = l.receive p c b := by
  rw [Link.rxByte, hc, Link.wire_of_bound hb]

/-! ## A field's digits -/

/-- The number of a digit string with one more digit (R70). -/
theorem hexNumber_append_singleton (digits : List Byte) (b : Byte) :
    hexNumber (digits ++ [b]) = hexNumber digits * 16#32 + ((hexVal? b).getD 0).setWidth 32 := by
  simp [hexNumber]

/-- The phases whose bytes are folded into the receive CRC (R79, R82, R85). -/
def Phase.folds (ph : Phase) : Prop := ph = .readCommand ∨ ph = .readMotorValues ∨ ph = .readPidAngle

/-- `l` in a frame, with the fields of `body` committed and the digits of `field` read and folded. -/
def Link.amid (l : Link) (body field : List Byte) : Link :=
  { l with rx := some (crc (body ++ field)), acc := hexNumber field }

@[simp] theorem Link.amid_phase (l : Link) (body field : List Byte) : (l.amid body field).phase = l.phase := rfl

/-- `l` with the digits of a checksum field read: they are not folded (R88). -/
def Link.withChecksum (l : Link) (digits : List Byte) : Link := { l with acc := hexNumber digits }

/-- Digits that take the instance from one state of a family to the next, one by one, take it to the state of them all. -/
theorem Link.feed_digits {p : Params} {read : List Byte → Link} {digits : List Byte} (h : AllHex digits)
    (hstep : ∀ ds b, isHex b = true → (read ds).rxByte p b = .next (read (ds ++ [b]))) :
    (read []).feed p digits = .next (read digits) := by
  induction digits using List.reverseRecOn with
  | nil => rfl
  | append_singleton ds b ih =>
    obtain ⟨hds, hb⟩ := List.forall_mem_append.mp h
    rw [Link.feed_append_of_next (ih hds), Link.feed_cons_of_next (hstep ds b (hb b (by simp))), Link.feed_nil]

/-- A digit in a phase that folds it (R79, R82, R85). -/
theorem Link.rxByte_amid_digit {l : Link} (hb : l.bound = true) (hm : l.markers.legal = true) (hphase : l.phase.folds)
    (p : Params) (body field : List Byte) {b : Byte} (hhex : isHex b = true) :
    (l.amid body field).rxByte p b = .next (l.amid body (field ++ [b])) := by
  have honHex : (l.amid body field).onHex b ((hexVal? b).getD 0) =
      ((l.amid body field).foldRx b).accumulate ((hexVal? b).getD 0) := by
    obtain h | h | h := hphase <;> simp only [Link.onHex, Link.amid_phase, h]
  rw [Link.rxByte_of_classify (l := l.amid body field) hb p (classify_of_isHex hm hhex), Link.receive, honHex]
  simp [Link.amid, Link.foldRx, Link.accumulate, hexNumber_append_singleton, ← List.append_assoc, crc_append_singleton]

/-- A digit of the checksum field (R88). -/
theorem Link.rxByte_withChecksum_digit {l : Link} (hb : l.bound = true) (hm : l.markers.legal = true)
    (hphase : l.phase = .validateChecksum) (p : Params) (digits : List Byte) {b : Byte} (hhex : isHex b = true) :
    (l.withChecksum digits).rxByte p b = .next (l.withChecksum (digits ++ [b])) := by
  rw [Link.rxByte_of_classify (l := l.withChecksum digits) hb p (classify_of_isHex hm hhex)]
  simp [Link.receive, Link.onHex, Link.withChecksum, hphase, Link.accumulate, hexNumber_append_singleton]

/-! ## What a separator commits -/

/-- The commit of a separator (R80, R83, R86), once the separator is folded and the accumulator's value `v` taken. -/
def Link.commit (l : Link) (p : Params) (v : Word) : Link :=
  match l.phase with
  | .readCommand => l.selectCommand p v
  | .readMotorValues => l.commitMotor v
  | .readPidAngle => l.commitPid p v
  | .idle | .validateChecksum => l

/-- A separator's first two writes end the field. -/
theorem Link.amid_foldRx_clearAcc (l : Link) (body field : List Byte) (b : Byte) :
    ((l.amid body field).foldRx b).clearAcc = l.amid (body ++ field ++ [b]) [] := by
  have hcrc : fold (some (crc (body ++ field))) b = some (crc (body ++ field ++ [b] ++ [])) := by
    rw [List.append_nil, crc_append_singleton, fold_some]
  simp only [Link.amid, Link.foldRx, Link.clearAcc, hcrc]
  rfl

/-- A separator in a phase that folds commits the number of the field it ends. -/
theorem Link.onSep_amid {l : Link} (hphase : l.phase.folds) (p : Params) (body field : List Byte) (b : Byte) :
    (l.amid body field).onSep p b = (l.amid (body ++ field ++ [b]) []).commit p (hexNumber field) := by
  rw [← Link.amid_foldRx_clearAcc]
  obtain h | h | h := hphase <;> simp only [Link.onSep, Link.commit, Link.amid_phase, Link.foldRx_phase,
    Link.clearAcc_phase, h] <;> rfl

/-- A field and the separator that ends it. -/
theorem Link.feed_field {l : Link} (hb : l.bound = true) (hm : l.markers.legal = true) (hphase : l.phase.folds)
    (p : Params) (body : List Byte) {field : List Byte} (hf : AllHex field) :
    (l.amid body []).feed p (field ++ [l.fieldSeparator]) =
      .next ((l.amid (body ++ field ++ [l.fieldSeparator]) []).commit p (hexNumber field)) := by
  have hdigits : (l.amid body []).feed p field = .next (l.amid body field) :=
    Link.feed_digits hf fun ds _ => Link.rxByte_amid_digit hb hm hphase p body ds
  rw [Link.feed_append_of_next hdigits, ← Link.onSep_amid hphase]
  refine Link.feed_cons_of_next ?_ []
  exact Link.rxByte_of_classify (l := l.amid body field) hb p (classify_sep hm)

/-! ## The fields of a frame -/

/-- A committed payload field stored in a command's record (R83, R86). -/
def Record.store (tag : CommandTag) (r : Record) (k : BitVec 8) (v : Word) : Record :=
  match tag with
  | .motor => r.setMotor k (motorValue v)
  | .pid => r.setPid k v

/-- `l` in a frame of command `tag`, with `k` payload fields committed to the record `r`. -/
def Link.payload (l : Link) (tag : CommandTag) (k : BitVec 8) (r : Record) : Link :=
  { l with
    status := .inProgress, currentCommand := tag, fieldIndex := k, record := r,
    phase := if k.toNat = Config.payloadFields then .validateChecksum else Phase.payloadOf tag }

/-- `l` at the end of a frame of command `tag` whose payload is the record `r` (R89). -/
def Link.decoded (l : Link) (tag : CommandTag) (r : Record) (body digits : List Byte) : Link :=
  let matched := checksumMatches (hexNumber digits) (crc body)
  { l with
    rx := some (crc body), acc := 0#32, fieldIndex := 0#8, phase := .idle, currentCommand := tag, record := r,
    status := frameVerdict matched, records := l.records ++ if matched then [r.out] else [] }

theorem Phase.payloadOf_folds (tag : CommandTag) : (Phase.payloadOf tag).folds := by
  cases tag
  · exact .inr (.inl rfl)
  · exact .inr (.inr rfl)

theorem Link.payload_phase {k : BitVec 8} (hk : k.toNat < Config.payloadFields) (l : Link) (tag : CommandTag) (r : Record) :
    (l.payload tag k r).phase = Phase.payloadOf tag := if_neg hk.ne

/-- The command commit (R80) begins the payload. -/
theorem Link.commit_command {l : Link} {p : Params} {tag : CommandTag} {v : Word} (htag : commandOf p v = some tag)
    (body : List Byte) :
    (l.reArm.amid body []).commit p v = (l.payload tag 0#8 (.blankOf tag)).amid body [] := by
  have hcommit : (l.reArm.amid body []).commit p v = (l.reArm.amid body []).selectCommand p v := rfl
  rw [hcommit, Link.selectCommand, htag]
  rfl

/-- Storing a field moves on to the next, or after the fourth to the checksum field (R83, R86). -/
theorem Link.nextField_payload {k : BitVec 8} (hk : k.toNat < Config.payloadFields) (l : Link) (tag : CommandTag)
    (r r' : Record) (body : List Byte) :
    Link.nextField { (l.payload tag k r).amid body [] with record := r' } =
      (l.payload tag (k + 1) r').amid body [] := by
  simp only [Link.nextField, Link.amid, Link.payload_phase hk]
  rfl

/-- R83's guard passed, the commit stores the field. -/
theorem Link.commitMotor_of_lt {l : Link} (h : l.fieldIndex.toNat < Config.payloadFields) (v : Word) :
    l.commitMotor v = Link.nextField { l with record := l.record.setMotor l.fieldIndex (motorValue v) } :=
  if_neg (Nat.not_le.mpr h)

/-- R86's guard and selector check passed, the commit stores the field. -/
theorem Link.commitPid_of_lt {l : Link} (h : l.fieldIndex.toNat < Config.payloadFields) {p : Params} {v : Word}
    (hsub : l.fieldIndex = 0 → isSubCommand p v = true) :
    l.commitPid p v = Link.nextField { l with record := l.record.setPid l.fieldIndex v } := by
  have hselector : ¬ (l.fieldIndex = 0 ∧ isSubCommand p v = false) := fun ⟨h0, hv⟩ => by simp [hsub h0] at hv
  rw [Link.commitPid, if_neg (Nat.not_le.mpr h), if_neg hselector]

/-- A payload commit (R83, R86) stores the field; a PID frame's first field must be one of the three codes. -/
theorem Link.commit_payload {l : Link} {p : Params} {tag : CommandTag} {k : BitVec 8} {v : Word}
    (hk : k.toNat < Config.payloadFields) (hsub : tag = .pid → k = 0#8 → isSubCommand p v = true) (r : Record)
    (body : List Byte) :
    ((l.payload tag k r).amid body []).commit p v = (l.payload tag (k + 1) (r.store tag k v)).amid body [] := by
  have hphase := Link.payload_phase hk l tag r
  rw [← Link.nextField_payload hk l tag r]
  cases tag with
  | motor =>
    rw [Link.commit, Link.amid_phase, hphase]
    exact Link.commitMotor_of_lt (l := (l.payload .motor k r).amid body []) hk v
  | pid =>
    rw [Link.commit, Link.amid_phase, hphase]
    exact Link.commitPid_of_lt (l := (l.payload .pid k r).amid body []) hk (hsub rfl)

/-- The end byte (R89), where the payload is read and the checksum field is `digits`. -/
theorem Link.onEnd_payload (l : Link) (tag : CommandTag) (r : Record) (body digits : List Byte) :
    (((l.payload tag 4#8 r).amid body []).withChecksum digits).onEnd = .next (l.decoded tag r body digits) := by
  have hend : (((l.payload tag 4#8 r).amid body []).withChecksum digits).onEnd =
      .next ((((l.payload tag 4#8 r).amid body []).withChecksum digits).endFrame (crc (body ++ []))) := rfl
  have hacc : (((l.payload tag 4#8 r).amid body []).withChecksum digits).acc = hexNumber digits := rfl
  rw [hend, List.append_nil, Link.endFrame, Link.decoded, hacc]
  cases checksumMatches (hexNumber digits) (crc body) <;>
    simp [Link.clearAcc, Link.emit, Link.withChecksum, Link.amid, Link.payload]

/-! ## The whole frame -/

/-- The bytes of a frame strictly after the start byte, up to and including the separator that ends the last payload field
(R46, R47). -/
def frameBody (sep : Byte) (cmd f1 f2 f3 f4 : List Byte) : List Byte :=
  cmd ++ [sep] ++ f1 ++ [sep] ++ f2 ++ [sep] ++ f3 ++ [sep] ++ f4 ++ [sep]

/-- The record of four payload fields. -/
def Record.ofFields (tag : CommandTag) (v1 v2 v3 v4 : Word) : Record :=
  ((((Record.blankOf tag).store tag 0 v1).store tag 1 v2).store tag 2 v3).store tag 3 v4

theorem Record.ofFields_motor (v1 v2 v3 v4 : Word) :
    Record.ofFields .motor v1 v2 v3 v4 =
      .motorValues (motorValue v1) (motorValue v2) (motorValue v3) (motorValue v4) := rfl

theorem Record.ofFields_pid (v1 v2 v3 v4 : Word) :
    Record.ofFields .pid v1 v2 v3 v4 = .pidAngle (subCommandValue v1) v2 v3 v4 := rfl

section
variable {l : Link} (hb : l.bound = true) (hm : l.markers.legal = true) {p : Params} {tag : CommandTag}
include hb

/-- The start byte (R77). -/
theorem Link.feed_start (p : Params) : l.feed p [l.startByte] = .next (l.reArm.amid [] []) := by
  refine Link.feed_cons_of_next ?_ []
  exact Link.rxByte_of_classify hb p (classify_start l.markers)

include hm

/-- The command field (R80). -/
theorem Link.feed_command {cmd : List Byte} (hcmd : AllHex cmd) (htag : commandOf p (hexNumber cmd) = some tag) :
    (l.reArm.amid [] []).feed p (cmd ++ [l.fieldSeparator]) =
      .next ((l.payload tag 0#8 (.blankOf tag)).amid (cmd ++ [l.fieldSeparator]) []) :=
  (Link.feed_field (l := l.reArm) hb hm (.inl rfl) p [] hcmd).trans (congrArg _ (Link.commit_command htag _))

/-- A payload field (R83, R86). -/
theorem Link.feed_payload {k : BitVec 8} (hk : k.toNat < Config.payloadFields) (r : Record) (body : List Byte)
    {field : List Byte} (hf : AllHex field) (hsub : tag = .pid → k = 0#8 → isSubCommand p (hexNumber field) = true) :
    ((l.payload tag k r).amid body []).feed p (field ++ [l.fieldSeparator]) =
      .next ((l.payload tag (k + 1) (r.store tag k (hexNumber field))).amid (body ++ field ++ [l.fieldSeparator]) []) := by
  have hfolds : (l.payload tag k r).phase.folds := Link.payload_phase hk l tag r ▸ Phase.payloadOf_folds tag
  exact (Link.feed_field (l := l.payload tag k r) hb hm hfolds p body hf).trans
    (congrArg _ (Link.commit_payload hk hsub r _))

/-- The checksum field and the end byte (R88, R89). -/
theorem Link.feed_checksum (r : Record) (body : List Byte) {digits : List Byte} (hf : AllHex digits) :
    ((l.payload tag 4#8 r).amid body []).feed p (digits ++ [l.endByte]) = .next (l.decoded tag r body digits) := by
  have hdigits : ((l.payload tag 4#8 r).amid body []).feed p digits =
      .next (((l.payload tag 4#8 r).amid body []).withChecksum digits) :=
    Link.feed_digits (read := ((l.payload tag 4#8 r).amid body []).withChecksum) hf fun ds _ =>
      Link.rxByte_withChecksum_digit (l := (l.payload tag 4#8 r).amid body []) hb hm rfl p ds
  have hend := Link.rxByte_of_classify (l := ((l.payload tag 4#8 r).amid body []).withChecksum digits) hb p
    (classify_fin hm)
  exact (Link.feed_append_of_next hdigits _).trans
    (Link.feed_cons_of_next (hend.trans (Link.onEnd_payload l tag r body digits)) [])

/-- A whole frame, from any state of a bound instance (R45). -/
theorem Link.feed_frame {cmd f1 f2 f3 f4 chk : List Byte} (hcmd : AllHex cmd) (h1 : AllHex f1) (h2 : AllHex f2)
    (h3 : AllHex f3) (h4 : AllHex f4) (hchk : AllHex chk) (htag : commandOf p (hexNumber cmd) = some tag)
    (hsub : tag = .pid → isSubCommand p (hexNumber f1) = true) :
    l.feed p ([l.startByte] ++ frameBody l.fieldSeparator cmd f1 f2 f3 f4 ++ chk ++ [l.endByte]) =
      .next (l.decoded tag (.ofFields tag (hexNumber f1) (hexNumber f2) (hexNumber f3) (hexNumber f4))
        (frameBody l.fieldSeparator cmd f1 f2 f3 f4) chk) := by
  have hframe : [l.startByte] ++ frameBody l.fieldSeparator cmd f1 f2 f3 f4 ++ chk ++ [l.endByte] =
      [l.startByte] ++ ((cmd ++ [l.fieldSeparator]) ++ ((f1 ++ [l.fieldSeparator]) ++ ((f2 ++ [l.fieldSeparator]) ++
        ((f3 ++ [l.fieldSeparator]) ++ ((f4 ++ [l.fieldSeparator]) ++ (chk ++ [l.endByte])))))) := by
    simp [frameBody]
  rw [hframe, Link.feed_append_of_next (Link.feed_start hb p), Link.feed_append_of_next (Link.feed_command hb hm hcmd htag),
    Link.feed_append_of_next (Link.feed_payload hb hm (by decide) _ _ h1 fun ht _ => hsub ht),
    Link.feed_append_of_next (Link.feed_payload hb hm (by decide) _ _ h2 (by simp)),
    Link.feed_append_of_next (Link.feed_payload hb hm (by decide) _ _ h3 (by simp)),
    Link.feed_append_of_next (Link.feed_payload hb hm (by decide) _ _ h4 (by simp))]
  exact Link.feed_checksum hb hm _ _ hchk

end

/-- What the end of a frame writes, by whether the checksum field equals the CRC in all 32 bits (R75). -/
theorem Link.decoded_eq (l : Link) (tag : CommandTag) (r : Record) (body digits : List Byte) :
    l.decoded tag r body digits =
      { l with
        rx := some (crc body), acc := 0#32, fieldIndex := 0#8, phase := .idle, currentCommand := tag, record := r,
        status := if hexNumber digits = (crc body).setWidth 32 then .ok else .checksumError,
        records := l.records ++ if hexNumber digits = (crc body).setWidth 32 then [r.out] else [] } := by
  simp [Link.decoded, checksumMatches, frameVerdict]

/-- Settles O38: from the start byte on each field commits its number, and the end byte compares the checksum field with the CRC
of the body. -/
theorem motorFrameIsDecoded : Obligations.MotorFrameIsDecoded := by
  intro s k l cmd f1 f2 f3 f4 chk rest hl hb hm hcmd h1 h2 h3 h4 hchk hmotor
  have htag : commandOf s.params (hexNumber cmd) = some .motor := if_pos hmotor
  have hfeed := Link.feed_frame hb hm hcmd h1 h2 h3 h4 hchk htag nofun
  rw [Link.decoded_eq, Record.ofFields_motor] at hfeed
  exact fun hi => run_wire _ (by simp) hi hl hfeed

theorem isSubCommand_of_code {p : Params} {code : Byte}
    (h : code = p.subRollPitch ∨ code = p.subYaw ∨ code = p.subAngle) : isSubCommand p (code.setWidth 32) = true := by
  obtain rfl | rfl | rfl := h <;> simp [isSubCommand]

/-- The stored sub-command is the code that matched (R73). -/
theorem subCommandValue_setWidth (code : Byte) : subCommandValue (code.setWidth 32) = code := by
  have hlow : subCommandValue (code.setWidth 32) = (code.setWidth 32).setWidth 8 := rfl
  simp [hlow]

/-- Settles O39: as a motor frame, with the selector field one of the three codes. -/
theorem pidFrameIsDecoded : Obligations.PidFrameIsDecoded := by
  intro s k l cmd sel fa fb fc chk code rest hlegal hl hb hm hcmd hsel hfa hfb hfc hchk hpid hcode hnum
  obtain ⟨hne, -⟩ := hlegal
  have htag : commandOf s.params (hexNumber cmd) = some .pid := by
    rw [commandOf, hpid, if_neg hne.symm, if_pos rfl]
  have hsub : isSubCommand s.params (hexNumber sel) = true := hnum ▸ isSubCommand_of_code hcode
  have hfeed := Link.feed_frame hb hm hcmd hsel hfa hfb hfc hchk htag fun _ => hsub
  rw [Link.decoded_eq, Record.ofFields_pid, hnum, subCommandValue_setWidth] at hfeed
  exact fun hi => run_wire _ (by simp) hi hl hfeed

end Sys2Proof.Machine
end

section
/-! SUPPORT. The wire rows and their bytes, and the bytes of a record. -/

namespace Sys2Proof.Machine

open Sys2Proof

/-! ## The HEX rows -/

/-- The row of a digit byte is looked up in the table of the HEX rows. -/
theorem hexRow?_eq_find? (b : Byte) : hexRow? b = (hexRows.find? fun row => row.2.1 == b).map (·.1) := by
  refine forall_byte (P := fun b => hexRow? b = (hexRows.find? fun row => row.2.1 == b).map (·.1)) ?_ b
  decide +kernel

/-- A HEX row is the row of its byte, which is a digit. -/
theorem hexRow?_of_mem_hexRows {i : Instr} {b : Byte} {d : Nibble} (h : (i, b, d) ∈ hexRows) :
    hexRow? b = some i ∧ isHex b = true := by
  have hrows : ∀ row ∈ hexRows, hexRow? row.2.1 = some row.1 ∧ isHex row.2.1 = true := by decide
  exact hrows _ h

/-- A HEX row is a wire row, well-formed under any markers. -/
theorem wf_of_mem_hexRows {i : Instr} {b : Byte} {d : Nibble} (h : (i, b, d) ∈ hexRows) (m : Markers) :
    i.format = .wireByte ∧ i.wf m = true := by
  have hrows : ∀ row ∈ hexRows, row.1.format = .wireByte ∧ row.1.wf m = true := by
    simp [hexRows, decimalRows, upperRows, lowerRows, Instr.format, Instr.wf]
  exact hrows _ h

/-- A digit byte has a HEX row. -/
theorem exists_mem_hexRows {b : Byte} (h : isHex b = true) : ∃ i d, (i, b, d) ∈ hexRows := by
  obtain ⟨i, hi⟩ := Option.isSome_iff_exists.mp (hexRow?_isSome b ▸ h)
  rw [hexRow?_eq_find?, Option.map_eq_some_iff] at hi
  obtain ⟨⟨j, c, d⟩, hfind, -⟩ := hi
  obtain rfl : c = b := by simpa using List.find?_some hfind
  exact ⟨j, d, List.mem_of_find?_eq_some hfind⟩

/-! ## The wire rows -/

/-- The rows of the wire: the three markers', the HEX rows, and OTHER. -/
theorem wireRow_cases {i : Instr} (h : i.format = .wireByte) :
    i = .startMark ∨ i = .sepMark ∨ i = .endMark ∨ (∃ b d, (i, b, d) ∈ hexRows) ∨ ∃ b, i = .other b := by
  cases i <;> cases h <;> simp [hexRows, decimalRows, upperRows, lowerRows]

/-- A wire row's bytes are the one it stands for. -/
theorem encode_eq_singleton {m : Markers} {i : Instr} {b : Byte} (h : i.format = .wireByte) :
    encode m i = [b] ↔ wireByte? m i = some b := by
  cases i <;> cases h <;> simp [encode, hostBytes?, wireByte?]

/-- A byte that is no marker is read as its HEX row, or as OTHER. -/
theorem decodeWire_of_not_marker {m : Markers} {b : Byte} (hb : b ≠ m.start ∧ b ≠ m.sep ∧ b ≠ m.fin) :
    decodeWire (some m) b = (hexRow? b).getD (.other b) := by
  simp [decodeWire, hb]

/-- Under legal markers a well-formed wire row is read back from its byte (R51). -/
theorem decodeWire_of_wireByte? {m : Markers} (hm : m.legal = true) {i : Instr} {b : Byte} (hf : i.format = .wireByte)
    (hw : i.wf m = true) (hb : wireByte? m i = some b) : decodeWire (some m) b = i := by
  obtain ⟨hss, hsf, huf, -⟩ := Markers.legal_iff.mp hm
  obtain rfl | rfl | rfl | ⟨c, d, hrow⟩ | ⟨c, rfl⟩ := wireRow_cases hf
  · cases hb; simp [decodeWire]
  · cases hb; simp [decodeWire, hss.symm]
  · cases hb; simp [decodeWire, hsf.symm, huf.symm]
  · obtain ⟨hlookup, hhex⟩ := hexRow?_of_mem_hexRows hrow
    obtain rfl : c = b := Option.some.inj ((wireByte?_of_hexRow? m hlookup).symm.trans hb)
    rw [decodeWire_of_not_marker (Markers.ne_of_isHex hm hhex), hlookup, Option.getD_some]
  · cases hb
    obtain ⟨hhex, hmarker⟩ : isHex b = false ∧ b ≠ m.start ∧ b ≠ m.sep ∧ b ≠ m.fin := by
      simpa [Instr.wf, isOtherByte, and_assoc] using hw
    rw [decodeWire_of_not_marker hmarker, hexRow?_of_not_isHex hhex, Option.getD_none]

/-- Every byte is the byte of a well-formed wire row. -/
theorem exists_wireRow (m : Markers) (b : Byte) :
    ∃ i : Instr, i.format = .wireByte ∧ i.wf m = true ∧ wireByte? m i = some b := by
  by_cases hhex : isHex b = true
  · obtain ⟨i, d, hrow⟩ := exists_mem_hexRows hhex
    obtain ⟨hf, hw⟩ := wf_of_mem_hexRows hrow m
    exact ⟨i, hf, hw, wireByte?_of_hexRow? m (hexRow?_of_mem_hexRows hrow).1⟩
  by_cases hstart : b = m.start
  · exact ⟨.startMark, rfl, rfl, congrArg some hstart.symm⟩
  by_cases hsep : b = m.sep
  · exact ⟨.sepMark, rfl, rfl, congrArg some hsep.symm⟩
  by_cases hfin : b = m.fin
  · exact ⟨.endMark, rfl, rfl, congrArg some hfin.symm⟩
  · exact ⟨.other b, rfl, by simp [Instr.wf, isOtherByte, hhex, hstart, hsep, hfin], rfl⟩

/-- Settles O6: a byte has a well-formed row, and the decoder reads a well-formed row back from its byte, so it reads that one. -/
theorem everyByteHasExactlyOneRow : Obligations.EveryByteHasExactlyOneRow := by
  intro m hm
  refine ⟨fun b => ?_, fun i b hw henc hf => decodeWire_of_wireByte? hm hf hw ((encode_eq_singleton hf).mp henc)⟩
  obtain ⟨i, hf, hw, hb⟩ := exists_wireRow m b
  have hi : decodeWire (some m) b = i := decodeWire_of_wireByte? hm hf hw hb
  have eq_row {j : Instr} (hjf : j.format = .wireByte) (hjw : j.wf m = true) : i = j ↔ wireByte? m j = some b :=
    ⟨fun h => h ▸ hb, fun h => hi.symm.trans (decodeWire_of_wireByte? hm hjf hjw h)⟩
  have eq_marker {j : Instr} {c : Byte} (hjf : j.format = .wireByte) (hjw : j.wf m = true)
      (hc : wireByte? m j = some c) : i = j ↔ b = c := by
    rw [eq_row hjf hjw, hc, Option.some_inj, eq_comm]
  simp only [hi]
  refine ⟨(encode_eq_singleton hf).mpr hb, hf, hw, eq_marker rfl rfl rfl, eq_marker rfl rfl rfl, eq_marker rfl rfl rfl,
    fun ⟨d, hrow⟩ => (hexRow?_of_mem_hexRows hrow).2, fun hhex => ?_⟩
  obtain ⟨j, d, hrow⟩ := exists_mem_hexRows hhex
  obtain ⟨hjf, hjw⟩ := wf_of_mem_hexRows hrow m
  have hij : i = j := (eq_row hjf hjw).mpr (wireByte?_of_hexRow? m (hexRow?_of_mem_hexRows hrow).1)
  exact ⟨d, hij ▸ hrow⟩

/-! ## The bytes of a record -/

/-- A 32-bit value's bytes stand for it, high byte first (R35). -/
theorem wordBytes_foldl (v : Word) : (wordBytes v).foldl (fun n d => n * 256 + d.toNat) 0 = v.toNat := by
  have h := v.isLt
  simp only [wordBytes, List.foldl_cons, List.foldl_nil, BitVec.extractLsb'_toNat, Nat.shiftRight_eq_div_pow]
  omega

/-- Settles O33: a PID record's three groups of 4 bytes are its three raw values' bytes, each high byte first. -/
theorem recordOutCarriesTheRecord : Obligations.RecordOutCarriesTheRecord := by
  refine ⟨fun m1 m2 m3 m4 => ⟨rfl, rfl⟩, fun sub a b c => ⟨rfl, rfl, rfl, fun j => ?_⟩⟩
  match j with
  | 0 => exact wordBytes_foldl a
  | 1 => exact wordBytes_foldl b
  | 2 => exact wordBytes_foldl c

end Sys2Proof.Machine
end

section
/-! SUPPORT. What the operation decoder refuses, and how a step over refused bytes ends. -/

namespace Sys2Proof.Machine

open Sys2Proof

/-! ## What the decoder refuses -/

/-- R56's reserved selectors. -/
theorem selectorOf_eq_none {b : Byte} :
    selectorOf b = none ↔ b.toNat = 0x00 ∨ (0x04 ≤ b.toNat ∧ b.toNat ≤ 0x0F) ∨ 0x14 ≤ b.toNat := by
  rw [← Option.not_isSome_iff_eq_none, selectorOf_isSome]
  simp only [List.mem_cons, List.not_mem_nil, or_false, decide_eq_true_eq]
  omega

/-- Operands can only be cut short. -/
theorem decodeOperands_eq_error {op : Selector} {bytes : List Byte} {e : DecodeError}
    (h : decodeOperands op bytes = .error e) : e = .truncated := by
  cases e with
  | truncated => rfl
  | reservedSelector =>
    revert h
    fun_cases decodeOperands op bytes <;> exact nofun

/-- The decoder refuses as reserved exactly a selector outside R55's table. -/
theorem decodeOp_eq_reserved {b : Byte} {bytes : List Byte} :
    decodeOp (b :: bytes) = .error .reservedSelector ↔ selectorOf b = none := by
  rw [decodeOp]
  cases selectorOf b with
  | none => simp
  | some op => simpa using fun h => nomatch decodeOperands_eq_error h

/-- A FRAME whose operands or payload are cut short. -/
theorem decodeOperands_frame_take {cap : Half} {payload : List Byte} (hw : payloadFits payload = true) {j : Nat}
    (hj : j < payload.length + 4) :
    decodeOperands .frame ((halfBytes cap ++ halfBytes (BitVec.ofNat 16 payload.length) ++ payload).take j) =
      .error .truncated := by
  match j with
  | 0 | 1 | 2 | 3 => rfl
  | t + 4 =>
    have hlen : payload.length < 65536 := by simpa [payloadFits] using hw
    have hn : (BitVec.ofNat 16 payload.length).toNat = payload.length := by simp [Nat.mod_eq_of_lt hlen]
    have hshort : (payload.take t).length < payload.length := by
      rw [List.length_take]
      omega
    have htake : (halfBytes cap ++ halfBytes (BitVec.ofNat 16 payload.length) ++ payload).take (t + 4) =
        halfBytes cap ++ halfBytes (BitVec.ofNat 16 payload.length) ++ payload.take t := rfl
    rw [htake]
    simp only [halfBytes, List.cons_append, List.nil_append, decodeOperands, halfOfBytes_halfBytes, hn]
    exact if_pos hshort

/-- Some of a well-formed operation's bytes, but not all, are an operation cut short (R56). -/
theorem decodeOp_take_encode {m : Markers} {i : Instr} (hf : i.format = .hostOp) (hw : i.wf m = true) {n : Nat}
    (h0 : 0 < n) (hn : n < (encode m i).length) : decodeOp ((encode m i).take n) = .error .truncated := by
  obtain ⟨j, rfl⟩ := Nat.exists_eq_add_one.mpr h0
  cases i
  case create s u e =>
    have hj : j < 3 := Nat.lt_of_succ_lt_succ hn
    interval_cases j <;> rfl
  case rxByte b | crcUpdate b =>
    obtain rfl : j = 0 := Nat.lt_one_iff.mp (Nat.lt_of_succ_lt_succ hn)
    rfl
  case lastError | crcReset | crcValue => exact absurd (Nat.lt_of_succ_lt_succ hn) (Nat.not_lt_zero j)
  case frame cap payload =>
    have hj : j < payload.length + 4 := Nat.lt_of_succ_lt_succ hn
    exact decodeOperands_frame_take hw hj
  all_goals cases hf

/-! ## A step over refused bytes -/

/-- A byte on an instance is never refused (R76, R99). -/
theorem Link.wire_ne_refused (l : Link) (p : Params) (c : ByteClass) (b : Byte) (r : Refusal) :
    l.wire p c b ≠ .refused r := by
  cases hb : l.bound with
  | false => simp [Link.wire_of_unbound hb]
  | true => rw [Link.wire_of_bound hb]; exact Link.receive_ne_refused

/-- The one instruction refused is CREATE, by one of its two names (R98). -/
theorem onInstance_eq_refused {i : Instr} {p : Params} {k : Nat} {l : Link} {r : Refusal}
    (h : onInstance i p k l = .refused r) : r = .alreadyCreated ∨ r = .illegalMarkers := by
  have engine (l1 l2 : Link) : l.ifBound (.next l1) (.next l2) ≠ .refused r := by cases hb : l.bound <;> simp [hb]
  induction i using instr_by_row with
  | create s u e =>
    simp only [onInstance, Link.create] at h
    split at h
    · cases h; exact .inl rfl
    · split at h <;> cases h
      exact .inr rfl
  | rxByte b => exact (Link.wire_ne_refused _ _ _ _ _ h).elim
  | lastError | crcReset | crcUpdate | frame => exact (engine _ _ h).elim
  | crcValue =>
    simp only [onInstance, Link.crcValue] at h
    cases hb : l.bound <;> cases htx : l.tx <;> simp [hb, htx] at h
  | wire i hi =>
    obtain ⟨c, hc⟩ := onInstance_of_wireByte hi
    exact (Link.wire_ne_refused _ _ _ _ _ (hc p k l ▸ h)).elim

/-- Where one instance alone has operations waiting, a step over an operation the decoder reads ends as the operation ends. -/
theorem step_of_decodeOp_ok {s : State} {k : Nat} {l : Link} {b : Byte} {bytes more : List Byte} {rest : List Input}
    {i : Instr} (hi : s.input = .op k (b :: bytes) :: rest) (hl : s.links[k]? = some l)
    (hrest : ∀ x ∈ rest, x.link = k) (hd : decodeOp (b :: bytes) = .ok (i, more)) :
    step s = (s.address k (waiting (.op k more :: rest))).putOutcome (onInstance i s.params k l) := by
  have hf : fetch s (.op k (b :: bytes)) = .instr i (.op k more) := by simp only [fetch, hl, hd]
  rw [step_of_only hi rfl hrest, attempt_of_instr hf hl]
  simp [Input.link]

theorem State.putOutcome_eq_refused {s : State} {o : LinkOutcome} {r : Refusal} (h : s.putOutcome o = .refused r) :
    o = .refused r := by
  cases o <;> cases h
  rfl

/-- Where one instance alone has operations waiting, a step over bytes the decoder refuses is refused. -/
theorem step_of_decodeOp_error {s : State} {k : Nat} {l : Link} {b : Byte} {bytes : List Byte} {rest : List Input}
    {e : DecodeError} (hi : s.input = .op k (b :: bytes) :: rest) (hl : s.links[k]? = some l)
    (hrest : ∀ x ∈ rest, x.link = k) (hd : decodeOp (b :: bytes) = .error e) : step s = .refused (refusalOf e) := by
  rw [step_of_only hi rfl hrest]
  exact attempt_of_refused (by simp only [fetch, hl, hd]) _ _

/-- Settles O7: where one instance alone has operations waiting a step ends as its first operation ends; no instruction is refused
as reserved, and where some of an operation's bytes are missing the decoder says so. -/
theorem reservedAndTruncatedOperationsAreRefused : Obligations.ReservedAndTruncatedOperationsAreRefused := by
  constructor
  · intro s k l sel more rest hi hl hrest
    rw [← selectorOf_eq_none, ← decodeOp_eq_reserved (bytes := more)]
    refine ⟨step_of_decodeOp_error hi hl hrest, fun hstep => ?_⟩
    cases hd : decodeOp (sel :: more) with
    | error e =>
      rw [step_of_decodeOp_error hi hl hrest hd] at hstep
      cases e <;> cases hstep
      rfl
    | ok d =>
      rw [step_of_decodeOp_ok hi hl hrest hd] at hstep
      obtain h | h := onInstance_eq_refused (State.putOutcome_eq_refused hstep) <;> cases h
  · intro s k n l m i rest hf hw h0 hn hi hl hrest
    have hd := decodeOp_take_encode hf hw h0 hn
    cases htake : (encode m i).take n with
    | nil =>
      have hlen := congrArg List.length htake
      rw [List.length_take_of_le hn.le, List.length_nil] at hlen
      exact absurd hlen h0.ne'
    | cons b bytes =>
      rw [htake] at hd hi
      exact step_of_decodeOp_error hi hl hrest hd

end Sys2Proof.Machine
end

section
/-! SUPPORT. The Checksum Engine: a fold is 8 rounds and a table entry, and what each of its operations answers. -/

namespace Sys2Proof.Machine

open Sys2Proof

/-! ## The fold -/

/-- R59's round in its own terms, by the most significant bit. -/
theorem crcRound_eq (c : Half) : crcRound c = if c.msb then (c <<< 1) ^^^ 0x1021#16 else c <<< 1 := by
  rw [BitVec.msb_eq_getLsbD_last]
  rfl

theorem crcRounds_eq_iterate (n : Nat) (c : Half) : crcRounds n c = crcRound^[n] c := by
  induction n generalizing c with
  | zero => rfl
  | succ n ih => exact ih (crcRound c)

/-- Settles O15: the model's rounds are R59's, iterated. -/
theorem foldIsEightRoundsOfThePolynomial : Obligations.FoldIsEightRoundsOfThePolynomial := by
  refine ⟨fun v b => ?_, fold_none, by decide⟩
  rw [fold_some, foldByte, crcRounds_eq_iterate, funext crcRound_eq]

/-- A value whose `n` high bits are zero meets no polynomial in `n` rounds: they only shift. -/
theorem crcRounds_eq_shiftLeft (n : Nat) {c : Half} (h : c.toNat * 2 ^ n < 2 ^ 16) : crcRounds n c = c <<< n := by
  induction n generalizing c with
  | zero => rw [crcRounds, BitVec.shiftLeft_zero]
  | succ n ih =>
    rw [pow_succ', ← Nat.mul_assoc] at h
    have hlow : c.toNat * 2 < 2 ^ 16 := (Nat.le_mul_of_pos_right _ (Nat.two_pow_pos n)).trans_lt h
    have hmsb : c.msb = false := by rw [BitVec.msb_eq_false_iff_two_mul_lt]; omega
    have hshift : (c <<< 1).toNat = c.toNat * 2 := by
      rw [BitVec.toNat_shiftLeft, Nat.shiftLeft_eq, pow_one, Nat.mod_eq_of_lt hlow]
    have hround : crcRound c = c <<< 1 := by rw [crcRound_eq, if_neg (by simp [hmsb])]
    rw [crcRounds, hround, ih (hshift ▸ h), ← BitVec.shiftLeft_add, Nat.add_comm]

/-- A 16-bit value by its two bytes. -/
theorem half_eq_xor (v : Half) :
    v = ((v.extractLsb' 8 8).setWidth 16 <<< 8) ^^^ (v.extractLsb' 0 8).setWidth 16 := by
  ext i hi
  by_cases h : i < 8
  · simp [h, BitVec.getLsbD_eq_getElem hi]
  · have hhigh : 8 + (i - 8) = i ∧ i - 8 < 8 := by omega
    simp [h, hhigh, BitVec.getLsbD_eq_getElem hi]

/-- A shift by a byte keeps the low byte alone. -/
theorem half_shiftLeft_eq (v : Half) : (v.extractLsb' 0 8).setWidth 16 <<< 8 = v <<< 8 := by
  refine BitVec.eq_of_toNat_eq ?_
  simp [Nat.shiftLeft_eq]
  omega

/-- Settles O16: rounds are linear, and over the low byte, which the shifts alone reach, they are a shift by a byte. -/
theorem foldIsAShiftAndATableEntry : Obligations.FoldIsAShiftAndATableEntry := by
  intro v b
  set hi := v.extractLsb' 8 8
  set lo := v.extractLsb' 0 8
  have hv : v = (hi.setWidth 16 <<< 8) ^^^ lo.setWidth 16 := half_eq_xor v
  have hlow : crcRounds 8 (lo.setWidth 16) = v <<< 8 := by
    have hlo := lo.isLt
    rw [crcRounds_eq_shiftLeft 8 (by simp; omega), half_shiftLeft_eq]
  have hsplit : v ^^^ (b.setWidth 16 <<< 8) = lo.setWidth 16 ^^^ (0#16 ^^^ ((hi ^^^ b).setWidth 16 <<< 8)) := by
    rw [BitVec.zero_xor, BitVec.setWidth_xor, BitVec.shiftLeft_xor_distrib]
    conv_lhs => rw [hv]
    ac_rfl
  rw [foldByte, hsplit, crcRounds_xor, hlow, foldByte]

/-- Settles O17: `CRC` is a left fold. -/
theorem crcFoldsInOrderAndMeetsTheCheckValue : Obligations.CrcFoldsInOrderAndMeetsTheCheckValue :=
  ⟨crc_nil, fun bytes b => congrArg some (crc_append_singleton bytes b), by decide +kernel⟩

/-! ## The operations -/

/-- A completed instruction is its action on the addressed instance. -/
theorem onInstance_of_exec_next {i : Instr} {s s' : State} {l l' : Link} (h : exec i s = .next s')
    (hl : s.links[s.sel]? = some l) (hl' : s'.links[s.sel]? = some l') : onInstance i s.params s.sel l = .next l' := by
  obtain ⟨m, m', hm, hi, rfl⟩ := exec_next h
  obtain rfl : m = l := Option.some.inj (hm.symm.trans hl)
  obtain rfl : m' = l' := Option.some.inj ((State.putLink_get m' s m hm).symm.trans hl')
  exact hi

/-- CRC_RESET leaves the initial value of a created instance, and keeps an instance not created (R62). -/
theorem Link.crcReset_next {l l' : Link} (h : l.crcReset = .next l') :
    l'.bound = l.bound ∧ l'.tx = if l.bound then some Config.crcInit else l.tx := by
  obtain ⟨hb, h⟩ | ⟨hb, h⟩ := Link.ifBound_eq_next.mp h <;> cases h <;> simp [hb]

/-- Settles O18: the second CRC_RESET finds the transmit context as the first left it. -/
theorem crcResetSetsTheInitialValue : Obligations.CrcResetSetsTheInitialValue := by
  refine ⟨fun _ => rfl, fun s l hl => ⟨fun hb => ?_, fun hb => ?_, fun s1 s2 l1 l2 h1 h2 hl1 hl2 => ?_⟩⟩
  · exact exec_of_sel hl (Link.ifBound_of_unbound hb _ _)
  · exact exec_of_sel hl (Link.ifBound_of_bound hb _ _)
  · obtain ⟨-, hsel, -⟩ := exec_outsideKept h1
    rw [← hsel] at hl2
    obtain ⟨hb, htx⟩ := Link.crcReset_next (onInstance_of_exec_next h1 hl hl1)
    obtain ⟨-, htx2⟩ := Link.crcReset_next (onInstance_of_exec_next h2 (hsel ▸ hl1) hl2)
    rw [htx2, htx, hb]
    split <;> rfl

/-- Settles O19: by whether the instance is created, and whether its transmit context holds a value. -/
theorem crcUpdateFoldsOneByte : Obligations.CrcUpdateFoldsOneByte := by
  refine ⟨fun _ _ => rfl, fun s l b hl => ⟨fun hb => ?_, fun hb v hv => ?_, fun hb hnone => ?_⟩⟩
  · exact exec_of_sel hl (Link.ifBound_of_unbound hb _ _)
  · rw [← hv]
    exact exec_of_sel hl (Link.ifBound_of_bound hb _ _)
  · have hfold : fold l.tx b = none := fold_eq_none.mpr hnone
    rw [← hfold]
    exact exec_of_sel hl (Link.ifBound_of_bound hb _ _)

/-- CRC_VALUE on a created instance whose transmit context holds a value (R64). -/
theorem Link.crcValue_of_some {l : Link} (hb : l.bound = true) {v : Half} (hv : l.tx = some v) (k : Nat) :
    l.crcValue k = .next (l.respond (.value .ok v)) := by
  rw [Link.crcValue, Link.ifBound_of_bound hb, hv]

/-- CRC_VALUE on a created instance whose transmit context was never reset (R64). -/
theorem Link.crcValue_of_none {l : Link} (hb : l.bound = true) (hnone : l.tx = none) (k : Nat) :
    l.crcValue k = .fault .undefinedRead := by
  rw [Link.crcValue, Link.ifBound_of_bound hb, hnone]

/-- Settles O20: by whether the instance is created, and whether its transmit context holds a value. -/
theorem crcValueReadsTheContextOrFaults : Obligations.CrcValueReadsTheContextOrFaults := by
  refine ⟨fun _ => rfl, fun _ _ => rfl, fun s l hl => ⟨fun hb v hv => ?_, fun hb hnone => ?_, fun hb => ?_⟩⟩
  · exact exec_of_sel hl (Link.crcValue_of_some hb hv _)
  · rw [exec_of_get hl, onInstance, Link.crcValue_of_none hb hnone, State.putOutcome_fault]
  · exact ⟨_, exec_of_sel hl (Link.ifBound_of_unbound hb _ _)⟩

/-- How FRAME's operands are read: the capacity, the payload's length `n`, and `n` bytes of payload (R55, R66). -/
theorem decodeOp_frame (ch cl nh nl : Byte) (more : List Byte) :
    decodeOp (0x13#8 :: ch :: cl :: nh :: nl :: more) =
      if more.length < nh.toNat * 256 + nl.toNat then .error .truncated
      else .ok (.frame (halfOfBytes ch cl) (more.take (nh.toNat * 256 + nl.toNat)),
        more.drop (nh.toNat * 256 + nl.toNat)) := by
  rw [← halfOfBytes_toNat]
  rfl

/-- FRAME on a created instance (R66). -/
theorem exec_frame_of_bound {s : State} {l : Link} (hl : s.links[s.sel]? = some l) (hb : l.bound = true) (cap : Half)
    (payload : List Byte) :
    exec (.frame cap payload) s = .next (s.putLink
      ({ l with tx := some (crc payload) }.respond (frameResponse cap (datagramOf l.markers payload 10)))) :=
  exec_of_sel hl (Link.ifBound_of_bound hb _ _)

theorem frameResponse_of_le {cap : Half} {out : List Byte} (h : out.length ≤ cap.toNat) :
    frameResponse cap out = .datagram .ok (BitVec.ofNat 16 out.length) out := if_neg (Nat.not_lt.mpr h)

theorem frameResponse_of_lt {cap : Half} {out : List Byte} (h : cap.toNat < out.length) :
    frameResponse cap out = .datagram .lengthError 0 [] := if_pos h

/-- Settles O22: by whether the instance is created, and whether the datagram fits the capacity. -/
theorem frameBuildsTheDatagram : Obligations.FrameBuildsTheDatagram := by
  refine ⟨fun _ _ _ => rfl, fun ch cl nh nl more => ⟨fun h => ?_, fun h => ?_⟩, fun s l cap payload hl => ?_⟩
  · rw [decodeOp_frame, if_neg (Nat.not_lt.mpr h)]
    rfl
  · rw [decodeOp_frame, if_pos h]
  · intro text out
    refine ⟨?_, fun hb => ?_, fun hb hfits => ?_, fun hb hshort => ?_⟩
    · simp only [out, List.length_append, List.length_singleton]
      omega
    · exact exec_of_sel hl (Link.ifBound_of_unbound hb _ _)
    · rw [exec_frame_of_bound hl hb, ← frameResponse_of_le hfits]
      rfl
    · rw [exec_frame_of_bound hl hb, frameResponse_of_lt (out := datagramOf l.markers payload 10) hshort]
      rfl

end Sys2Proof.Machine
end

section
/-! SUPPORT. The Checksum Engine's operations and the parser keep to their own sides of an instance (R27, R61): each is run on the
instance with the registers of its other side replaced. -/

namespace Sys2Proof.Machine

open Sys2Proof

/-! ## The two sides of an instance -/

/-- `l` with the engine's side of `m`: the transmit context, the responses and the draw counter. -/
def Link.withEngine (l m : Link) : Link := { l with tx := m.tx, responses := m.responses, draws := m.draws }

/-- `l` with the parser's side of `m`: every parser register and the RecordOut port. -/
def Link.withParser (l m : Link) : Link :=
  { l with
    rx := m.rx, phase := m.phase, fieldIndex := m.fieldIndex, acc := m.acc, currentCommand := m.currentCommand,
    record := m.record, status := m.status, records := m.records }

@[simp] theorem Link.withEngine_phase (l m : Link) : (l.withEngine m).phase = l.phase := rfl
@[simp] theorem Link.withEngine_fieldIndex (l m : Link) : (l.withEngine m).fieldIndex = l.fieldIndex := rfl
@[simp] theorem Link.withEngine_acc (l m : Link) : (l.withEngine m).acc = l.acc := rfl
@[simp] theorem Link.withEngine_rx (l m : Link) : (l.withEngine m).rx = l.rx := rfl

theorem Link.withEngine_kept (l m : Link) : l.SameConfig (l.withEngine m) ∧ l.SameParser (l.withEngine m) :=
  ⟨⟨rfl, rfl, rfl, rfl⟩, rfl, rfl, rfl, rfl, rfl, rfl, rfl, rfl⟩

theorem Link.withEngine_sameEngine (l m : Link) : m.SameEngine (l.withEngine m) := ⟨rfl, rfl, rfl⟩

/-- Two instances that may differ in the parser's side only. -/
theorem Link.eq_withParser {l m : Link} (hc : l.SameConfig m) (he : l.SameEngine m) : m = l.withParser m := by
  obtain ⟨hbound, hstart, hsep, hend⟩ := hc
  obtain ⟨htx, hresponses, hdraws⟩ := he
  rw [Link.withParser, ← hbound, ← hstart, ← hsep, ← hend, ← htx, ← hresponses, ← hdraws]

/-- Two instances that may differ in the engine's side only. -/
theorem Link.eq_withEngine {l m : Link} (hc : l.SameConfig m) (hp : l.SameParser m) : m = l.withEngine m := by
  obtain ⟨hbound, hstart, hsep, hend⟩ := hc
  obtain ⟨hrx, hphase, hindex, hacc, hcommand, hrecord, hstatus, hrecords⟩ := hp
  rw [Link.withEngine, ← hbound, ← hstart, ← hsep, ← hend, ← hrx, ← hphase, ← hindex, ← hacc, ← hcommand, ← hrecord,
    ← hstatus, ← hrecords]

/-! ## An engine operation, whatever the parser holds -/

/-- An engine operation on `l` with any parser side keeps that side, and makes of the engine's side what it makes of it on `l`. -/
theorem onInstance_withParser {i : Instr} (hi : engineOp i = true) {p : Params} {k : Nat} {l l' : Link}
    (h : onInstance i p k l = .next l') (m : Link) :
    onInstance i p k (l.withParser m) = .next ((l.withParser m).withEngine l') := by
  have answer (r r' : Response) (tx : Option Half)
      (h : l.ifBound (.next (l.respond r)) (.next ({ l with tx := tx }.respond r')) = .next l') :
      (l.withParser m).ifBound (.next ((l.withParser m).respond r))
        (.next ({ l.withParser m with tx := tx }.respond r')) = .next ((l.withParser m).withEngine l') := by
    obtain ⟨hb, h⟩ | ⟨hb, h⟩ := Link.ifBound_eq_next.mp h <;> cases h
    · exact Link.ifBound_of_unbound (l := l.withParser m) hb _ _
    · exact Link.ifBound_of_bound (l := l.withParser m) hb _ _
  cases i
  case crcReset | crcUpdate b | frame cap payload => exact answer _ _ _ h
  case crcValue =>
    obtain ⟨hb, h⟩ | ⟨hb, h⟩ := Link.ifBound_eq_next.mp h
    · cases h
      exact Link.ifBound_of_unbound (l := l.withParser m) hb _ _
    · cases htx : l.tx with
      | none => simp [htx] at h
      | some v =>
        simp only [htx] at h
        cases h
        exact Link.crcValue_of_some (l := l.withParser m) hb htx k
  all_goals cases hi

/-! ## A received byte, whatever the engine holds -/

theorem Link.selectCommand_withEngine (l m : Link) (p : Params) (v : Word) :
    (l.withEngine m).selectCommand p v = (l.selectCommand p v).withEngine m := by
  unfold Link.selectCommand
  cases commandOf p v <;> rfl

theorem Link.commitMotor_withEngine (l m : Link) (v : Word) :
    (l.withEngine m).commitMotor v = (l.commitMotor v).withEngine m := by
  unfold Link.commitMotor
  rw [Link.withEngine_fieldIndex]
  split <;> rfl

theorem Link.commitPid_withEngine (l m : Link) (p : Params) (v : Word) :
    (l.withEngine m).commitPid p v = (l.commitPid p v).withEngine m := by
  unfold Link.commitPid
  rw [Link.withEngine_fieldIndex]
  split
  · rfl
  · split <;> rfl

theorem Link.onSep_withEngine (l m : Link) (p : Params) (b : Byte) :
    (l.withEngine m).onSep p b = (l.onSep p b).withEngine m := by
  unfold Link.onSep
  rw [Link.withEngine_phase]
  cases l.phase with
  | idle | validateChecksum => rfl
  | readCommand => exact (l.foldRx b).clearAcc.selectCommand_withEngine m p l.acc
  | readMotorValues => exact (l.foldRx b).clearAcc.commitMotor_withEngine m l.acc
  | readPidAngle => exact (l.foldRx b).clearAcc.commitPid_withEngine m p l.acc

theorem Link.onHex_withEngine (l m : Link) (b : Byte) (d : Nibble) :
    (l.withEngine m).onHex b d = (l.onHex b d).withEngine m := by
  unfold Link.onHex
  rw [Link.withEngine_phase]
  cases l.phase <;> rfl

theorem Link.onOther_withEngine (l m : Link) : (l.withEngine m).onOther = l.onOther.withEngine m := by
  unfold Link.onOther
  rw [Link.withEngine_phase]
  cases l.phase <;> rfl

theorem Link.endFrame_withEngine (l m : Link) (c : Half) :
    (l.withEngine m).endFrame c = (l.endFrame c).withEngine m := by
  unfold Link.endFrame
  rw [Link.withEngine_acc]
  cases checksumMatches l.acc c <;> rfl

theorem Link.onEnd_withEngine {l l' : Link} (h : l.onEnd = .next l') (m : Link) :
    (l.withEngine m).onEnd = .next (l'.withEngine m) := by
  unfold Link.onEnd at h ⊢
  rw [Link.withEngine_phase, Link.withEngine_rx]
  cases hphase : l.phase with
  | idle | readCommand | readMotorValues | readPidAngle => rw [hphase] at h; cases h; rfl
  | validateChecksum =>
    cases hrx : l.rx with
    | none => simp [hphase, hrx] at h
    | some c => simp only [hphase, hrx] at h; cases h; exact congrArg _ (l.endFrame_withEngine m c)

theorem Link.receive_withEngine {l l' : Link} {p : Params} {c : ByteClass} {b : Byte} (h : l.receive p c b = .next l')
    (m : Link) : (l.withEngine m).receive p c b = .next (l'.withEngine m) := by
  cases c with
  | start => cases h; rfl
  | sep => cases h; exact congrArg _ (l.onSep_withEngine m p b)
  | fin => exact Link.onEnd_withEngine h m
  | hex d => cases h; exact congrArg _ (l.onHex_withEngine m b d)
  | other => cases h; exact congrArg _ (l.onOther_withEngine m)

theorem Link.wire_withEngine {l l' : Link} {p : Params} {c : ByteClass} {b : Byte} (h : l.wire p c b = .next l')
    (m : Link) : (l.withEngine m).wire p c b = .next (l'.withEngine m) := by
  obtain ⟨hb, h⟩ | ⟨hb, h⟩ := Link.ifBound_eq_next.mp h
  · cases h
    exact Link.wire_of_unbound (l := l.withEngine m) hb p c b
  · exact (Link.wire_of_bound (l := l.withEngine m) hb p c b).trans (Link.receive_withEngine h m)

theorem Link.wire_frame {l l' : Link} {p : Params} {c : ByteClass} {b : Byte} (h : l.wire p c b = .next l') :
    l.SameConfig l' ∧ l.SameEngine l' := by
  obtain ⟨-, h⟩ | ⟨-, h⟩ := Link.ifBound_eq_next.mp h
  · cases h
    simp [Link.SameConfig, Link.SameEngine]
  · exact Link.receive_frame h

/-- A received byte is a byte on the wire, whose class and value the instruction and the markers give (R51, R76). -/
theorem onInstance_of_receivedByte {i : Instr} (h : receivedByte i = true) :
    ∃ (c : Markers → ByteClass) (b : Markers → Byte), ∀ p k l,
      onInstance i p k l = l.wire p (c l.markers) (b l.markers) := by
  by_cases hf : i.format = .wireByte
  · obtain ⟨c, hc⟩ := onInstance_of_wireByte hf
    exact ⟨fun _ => c, fun m => (wireByte? m i).getD 0, hc⟩
  · cases i
    case rxByte b => exact ⟨fun m => classify m b, fun _ => b, fun _ _ _ => rfl⟩
    all_goals simp_all [receivedByte]

/-! ## The statement -/

/-- An instruction with another instance in the place of the addressed one. -/
theorem exec_set_of_next {i : Instr} {s : State} {l m m' : Link} (hl : s.links[s.sel]? = some l)
    (h : onInstance i s.params s.sel m = .next m') :
    ∃ t, exec i { s with links := s.links.set s.sel m } = .next t ∧ t.links[s.sel]? = some m' := by
  have hm : (s.putLink m).links[s.sel]? = some m := State.putLink_get m s l hl
  exact ⟨_, exec_of_sel (s := s.putLink m) hm h, State.putLink_get m' (s.putLink m) m hm⟩

/-- Settles O43: with the other side replaced an operation completes alike, and that side stays as it was put. -/
theorem engineAndParserDoNotInterfere : Obligations.EngineAndParserDoNotInterfere := by
  intro i s s' l l' hl hexec hl'
  have h := onInstance_of_exec_next hexec hl hl'
  refine ⟨fun hi => ?_, fun hi => ?_⟩
  · have hself : l' = l.withEngine l' := Host.Outcome.next.inj (h.symm.trans (onInstance_withParser hi h l))
    have hkept := l.withEngine_kept l'
    rw [← hself] at hkept
    refine ⟨hkept.1, hkept.2, fun m hc he => ?_⟩
    have hm := onInstance_withParser hi h m
    rw [← Link.eq_withParser hc he] at hm
    obtain ⟨t, ht, hm'⟩ := exec_set_of_next hl hm
    exact ⟨t, _, ht, hm', m.withEngine_sameEngine l'⟩
  · obtain ⟨c, b, hwire⟩ := onInstance_of_receivedByte hi
    rw [hwire] at h
    obtain ⟨hconfig, hengine⟩ := Link.wire_frame h
    refine ⟨hconfig, hengine, fun m hc hp => ?_⟩
    have hm : onInstance i s.params s.sel (l.withEngine m) = .next (l'.withEngine m) := by
      rw [hwire]
      exact Link.wire_withEngine h m
    rw [← Link.eq_withEngine hc hp] at hm
    obtain ⟨t, ht, hm'⟩ := exec_set_of_next hl hm
    exact ⟨t, _, ht, hm', (l'.withEngine_kept m).2⟩

end Sys2Proof.Machine
end

section
/-! SUPPORT. The checksum's text (R65) is Mathlib's digits of the value, the most significant first. -/

namespace Sys2Proof.Machine

open Sys2Proof

/-- The digits of `v`'s numeral in radix `r`, the least significant first: one digit for 0. -/
def numeralDigits (r v : Nat) : List Nat := if v = 0 then [0] else Nat.digits r v

theorem numeralDigits_of_ne_zero {v : Nat} (hv : v ≠ 0) (r : Nat) : numeralDigits r v = Nat.digits r v := if_neg hv

theorem numeralDigits_of_lt {r v : Nat} (h : v < r) : numeralDigits r v = [v] := by
  by_cases hv : v = 0
  · subst hv; rfl
  · rw [numeralDigits_of_ne_zero hv, Nat.digits_of_lt r v hv h]

theorem numeralDigits_of_le {r v : Nat} (hr : 1 < r) (h : r ≤ v) :
    numeralDigits r v = v % r :: numeralDigits r (v / r) := by
  have hv : 0 < v := by omega
  have hquot : 0 < v / r := Nat.div_pos h (by omega)
  rw [numeralDigits_of_ne_zero hv.ne', numeralDigits_of_ne_zero hquot.ne', Nat.digits_def' hr hv]

theorem lt_of_mem_numeralDigits {r v d : Nat} (hr : 1 < r) (h : d ∈ numeralDigits r v) : d < r := by
  by_cases hv : v = 0
  · subst hv
    obtain rfl : d = 0 := List.mem_singleton.mp h
    omega
  · exact Nat.digits_lt_base hr (numeralDigits_of_ne_zero hv r ▸ h)

theorem ofDigits_numeralDigits (r v : Nat) : Nat.ofDigits r (numeralDigits r v) = v := by
  by_cases hv : v = 0
  · subst hv; rfl
  · rw [numeralDigits_of_ne_zero hv, Nat.ofDigits_digits]

theorem numeralDigits_length_pos (r v : Nat) : 0 < (numeralDigits r v).length := by
  by_cases hv : v = 0
  · subst hv; exact Nat.one_pos
  · rw [numeralDigits_of_ne_zero hv]
    exact List.length_pos_iff.mpr (Nat.digits_ne_nil_iff_ne_zero.mpr hv)

theorem numeralDigits_length_le {r v k : Nat} (hr : 1 < r) (hk : 0 < k) (h : v < r ^ k) :
    (numeralDigits r v).length ≤ k := by
  by_cases hv : v = 0
  · subst hv; exact hk
  · rw [numeralDigits_of_ne_zero hv]
    exact (Nat.digits_length_le_iff hr v).mpr h

/-- No numeral but that of 0 has 0 for its most significant digit. -/
theorem eq_zero_of_numeralDigits_getLast? {r v : Nat} (h : (numeralDigits r v).getLast? = some 0) : v = 0 := by
  by_contra hv
  rw [numeralDigits_of_ne_zero hv, List.getLast?_eq_some_getLast (Nat.digits_ne_nil_iff_ne_zero.mpr hv)] at h
  exact Nat.getLast_digit_ne_zero r hv (Option.some.inj h)

/-- With fuel enough for its digits the text of a value is its numeral. -/
theorem renderAux_eq {r : Nat} (hr : 1 < r) (fuel : Nat) {v : Nat} (hv : v < r ^ (fuel + 1)) (acc : List Byte) :
    renderAux (fuel + 1) r v acc = (numeralDigits r v).reverse.map digitChar ++ acc := by
  induction fuel generalizing v acc with
  | zero =>
    have hlt : v < r := by simpa using hv
    rw [renderAux, if_pos hlt, numeralDigits_of_lt hlt]
    rfl
  | succ fuel ih =>
    rw [renderAux]
    by_cases hlt : v < r
    · rw [if_pos hlt, numeralDigits_of_lt hlt]
      rfl
    · have hquot : v / r < r ^ (fuel + 1) := Nat.div_lt_of_lt_mul (by rwa [← pow_succ'])
      rw [if_neg hlt, ih hquot, numeralDigits_of_le hr (Nat.not_lt.mp hlt)]
      simp

/-- A 16-bit value has no more than the 16 digits the text has room for. -/
theorem render_eq {r : Nat} (hr : 1 < r) (v : Half) :
    render v r = (numeralDigits r v.toNat).reverse.map digitChar := by
  have hv : v.toNat < r ^ 16 := v.isLt.trans_le (Nat.pow_le_pow_left hr 16)
  rw [render, renderAux_eq hr 15 hv, List.append_nil]

/-- A text read back, the most significant digit first, is the number of its digits. -/
theorem foldl_map_digitChar {r : Nat} {value : Byte → Nat} {digits : List Nat}
    (h : ∀ d ∈ digits, value (digitChar d) = d) :
    (digits.reverse.map digitChar).foldl (fun n c => n * r + value c) 0 = Nat.ofDigits r digits := by
  induction digits with
  | nil => rfl
  | cons d digits ih =>
    obtain ⟨hd, hdigits⟩ := List.forall_mem_cons.mp h
    rw [List.reverse_cons, List.map_append, List.foldl_append, ih hdigits, Nat.ofDigits_cons]
    simp [hd, Nat.mul_comm, Nat.add_comm]

/-- R65 for a radix whose digits are the characters of `isDigit`, read by `value`, where 16 bits fit in `k` of them. -/
theorem render_canonical {r k : Nat} {isDigit : Byte → Prop} {value : Byte → Nat} (hr : 1 < r) (hk : 0 < k)
    (hfit : 2 ^ 16 ≤ r ^ k) (hdigit : ∀ d < r, isDigit (digitChar d) ∧ value (digitChar d) = d) (v : Half) :
    (∀ c ∈ render v r, isDigit c) ∧ (render v r).foldl (fun n c => n * r + value c) 0 = v.toNat ∧
      1 ≤ (render v r).length ∧ (render v r).length ≤ k ∧
      ((render v r).head? = some 0x30#8 → v = 0#16 ∧ render v r = [0x30#8]) := by
  have hlt {d : Nat} (h : d ∈ numeralDigits r v.toNat) : d < r := lt_of_mem_numeralDigits hr h
  rw [render_eq hr]
  refine ⟨fun c hc => ?_, ?_, ?_, ?_, fun hhead => ?_⟩
  · obtain ⟨d, hd, rfl⟩ := List.mem_map.mp hc
    exact (hdigit d (hlt (List.mem_reverse.mp hd))).1
  · rw [foldl_map_digitChar fun d hd => (hdigit d (hlt hd)).2, ofDigits_numeralDigits]
  · rw [List.length_map, List.length_reverse]
    exact numeralDigits_length_pos r v.toNat
  · rw [List.length_map, List.length_reverse]
    exact numeralDigits_length_le hr hk (v.isLt.trans_le hfit)
  · rw [List.head?_map, List.head?_reverse] at hhead
    obtain ⟨d, hd, hchar⟩ := Option.map_eq_some_iff.mp hhead
    have hzero : d = 0 := by
      rw [← (hdigit d (hlt (List.mem_of_getLast? hd))).2, hchar]
      exact (hdigit 0 (by omega)).2
    obtain rfl : v = 0#16 := BitVec.eq_of_toNat_eq (eq_zero_of_numeralDigits_getLast? (hzero ▸ hd))
    exact ⟨rfl, rfl⟩

/-- Settles O21: radix 10 and radix 16, whose digits are few enough to look at one by one. -/
theorem renderIsTheCanonicalNumeral : Obligations.RenderIsTheCanonicalNumeral := fun v =>
  ⟨render_canonical (value := fun c => c.toNat - 0x30) (by decide) (by decide) (by decide) (by decide) v,
    render_canonical (value := fun c => if c.toNat ≤ 0x39 then c.toNat - 0x30 else c.toNat - 0x37)
      (by decide) (by decide) (by decide) (by decide) v⟩

end Sys2Proof.Machine
end

section
/-! SUPPORT. The hex-ASCII decoder: the digits and their values (R68, R69), what a digit does to an instance in each phase, and the
significand and exponent of a PID component's real (R74). -/

namespace Sys2Proof.Machine

open Sys2Proof

/-! ## The conversion to binary64 -/

/-- A nonzero number of at most 53 bits, shifted so that its leading bit is bit 52: a significand of binary64. -/
theorem significand_bounds {n : Nat} (hn : n ≠ 0) (he : n.log2 ≤ 52) :
    2 ^ 52 ≤ n * 2 ^ (52 - n.log2) ∧ n * 2 ^ (52 - n.log2) < 2 ^ 53 := by
  have hlow : 2 ^ n.log2 * 2 ^ (52 - n.log2) = 2 ^ 52 := pow_mul_pow_sub 2 he
  have hhigh : 2 ^ (n.log2 + 1) * 2 ^ (52 - n.log2) = 2 ^ 53 := by
    rw [← Nat.pow_add]
    congr 1
    omega
  constructor
  · rw [← hlow]
    exact Nat.mul_le_mul_right _ (Nat.log2_self_le hn)
  · rw [← hhigh]
    exact Nat.mul_lt_mul_of_pos_right Nat.lt_log2_self (Nat.two_pow_pos _)

/-- The two fields of a nonzero value's real: the biased exponent and the fraction, without the leading bit. -/
theorem pidToReal_fields {v : Word} (hv : v ≠ 0) :
    ∃ e f, e < 32 ∧ f < 2 ^ 52 ∧ (pidToReal v).toNat = (1023 + e) * 2 ^ 52 + f ∧ (2 ^ 52 + f) * 2 ^ e = v.toNat * 2 ^ 52 := by
  have hn : v.toNat ≠ 0 := fun h => hv (BitVec.eq_of_toNat_eq h)
  have he : v.toNat.log2 < 32 := (Nat.log2_lt hn).mpr v.isLt
  obtain ⟨hlow, hhigh⟩ := significand_bounds hn (by omega)
  refine ⟨v.toNat.log2, v.toNat * 2 ^ (52 - v.toNat.log2) - 2 ^ 52, he, by omega, ?_, ?_⟩
  · rw [pidToReal, if_neg hv, BitVec.toNat_ofNat]
    exact Nat.mod_eq_of_lt (by omega)
  · rw [Nat.add_sub_cancel' hlow, Nat.mul_assoc, Nat.pow_sub_mul_pow 2 (by omega)]

/-- Settles O25: the leading bit of the value is the implied one of its real, and the 31 bits below it fit in the fraction. -/
theorem pidToRealIsExact : Obligations.PidToRealIsExact := by
  refine ⟨rfl, fun v hv => ?_⟩
  obtain ⟨e, f, he, hf, hbits, hvalue⟩ := pidToReal_fields hv
  have hexp : (pidToReal v).toNat / 2 ^ 52 = 1023 + e := by omega
  have hfrac : (pidToReal v).toNat % 2 ^ 52 = f := by omega
  simp only [hexp, hfrac]
  refine ⟨by omega, by omega, ?_⟩
  rw [Nat.add_sub_cancel_left, hvalue]

/-! ## The digits -/

/-- The three runs of digit characters (R68). -/
theorem isHex_iff (b : Byte) :
    isHex b = true ↔ (0x30 ≤ b.toNat ∧ b.toNat ≤ 0x39) ∨ (0x41 ≤ b.toNat ∧ b.toNat ≤ 0x46) ∨
      (0x61 ≤ b.toNat ∧ b.toNat ≤ 0x66) := by
  simp [isHex, BitVec.le_def, or_assoc]

/-- The low 4 bits of a byte's distance from a lower one. -/
theorem setWidth_sub_of_le {k : Nat} {b : Byte} (h : k ≤ b.toNat) :
    (b - BitVec.ofNat 8 k).setWidth 4 = BitVec.ofNat 4 (b.toNat - k) := by
  have hk : (BitVec.ofNat 8 k).toNat = k := Nat.mod_eq_of_lt (h.trans_lt b.isLt)
  rw [← BitVec.ofNat_toNat, BitVec.toNat_sub_of_le (by rwa [BitVec.le_def, hk]), hk]

/-- Settles O23: `HexVal` tests the three runs in turn, and a byte of one is in no run before it. -/
theorem hexDigitsAreTheTwentyTwoBytes : Obligations.HexDigitsAreTheTwentyTwoBytes := by
  refine fun b => ⟨isHex_iff b, fun h => ?_, fun h => ?_, fun h => ?_, hexVal?_of_not_isHex⟩
  · rw [← setWidth_sub_of_le h.1]
    simp [hexVal?, BitVec.le_def, h]
  · have hdecimal : ¬ b.toNat ≤ 0x39 := by omega
    rw [← setWidth_sub_of_le (by omega)]
    simp [hexVal?, BitVec.le_def, h, hdecimal]
  · have hdecimal : ¬ b.toNat ≤ 0x39 := by omega
    have hupper : ¬ b.toNat ≤ 0x46 := by omega
    rw [← setWidth_sub_of_le (by omega)]
    simp [hexVal?, BitVec.le_def, h, hdecimal, hupper]

/-! ## A digit on an instance -/

/-- A HEX row hands the parser its byte, as a digit of its value (R51, R69). -/
theorem onInstance_of_mem_hexRows {i : Instr} {b : Byte} {d : Nibble} (h : (i, b, d) ∈ hexRows) (p : Params) (k : Nat)
    (l : Link) : onInstance i p k l = l.wire p (.hex d) b := by
  have hvalues : ∀ row ∈ hexRows, hexVal? row.2.1 = some row.2.2 := by decide
  obtain ⟨d', hd', hi⟩ := onInstance_hexRow? (hexRow?_of_mem_hexRows h).1
  obtain rfl : d = d' := Option.some.inj ((hvalues _ h).symm.trans hd')
  exact hi p k l

/-- A HEX row on a created instance. -/
theorem exec_of_mem_hexRows {i : Instr} {b : Byte} {d : Nibble} (h : (i, b, d) ∈ hexRows) {s : State} {l : Link}
    (hl : s.links[s.sel]? = some l) (hb : l.bound = true) : exec i s = .next (s.putLink (l.onHex b d)) := by
  rw [exec_of_get hl, onInstance_of_mem_hexRows h, Link.wire_of_bound hb, Link.receive, State.putOutcome_next]

theorem Link.onHex_of_folds {l : Link} (h : l.phase.folds) (b : Byte) (d : Nibble) :
    l.onHex b d = (l.foldRx b).accumulate d := by
  obtain h | h | h := h <;> rw [Link.onHex, h]

theorem Link.onHex_of_validateChecksum {l : Link} (h : l.phase = .validateChecksum) (b : Byte) (d : Nibble) :
    l.onHex b d = l.accumulate d := by rw [Link.onHex, h]

theorem Link.onHex_of_idle {l : Link} (h : l.phase = .idle) (b : Byte) (d : Nibble) : l.onHex b d = l := by
  rw [Link.onHex, h]

/-- Settles O24: a row is its digit on the instance, and the phase says what the digit does. -/
theorem hexDigitsAreFoldedAndAccumulated : Obligations.HexDigitsAreFoldedAndAccumulated := by
  refine fun row hrow s l hl hb => ⟨fun hphase => ?_, fun hphase => ?_, fun hphase => ?_⟩ <;>
    rw [exec_of_mem_hexRows hrow hl hb]
  · rw [Link.onHex_of_folds hphase]
    rfl
  · rw [Link.onHex_of_validateChecksum hphase]
    rfl
  · rw [Link.onHex_of_idle hphase, State.putLink_self l s hl]

end Sys2Proof.Machine
end

section
/-! SUPPORT. The Frame Parser, row by row: which class each row hands the parser, and what a byte of the class does in each phase
(R76 to R91). -/

namespace Sys2Proof.Machine

open Sys2Proof

/-! ## RX_BYTE and the wire rows -/

/-- Settles O10: the row a byte is decoded to does on the instance what RX_BYTE of the byte does. -/
theorem rxByteRunsTheRowOfItsByte : Obligations.RxByteRunsTheRowOfItsByte := by
  intro s l b hl
  rw [exec_of_get hl, exec_of_get hl]
  exact congrArg s.putOutcome (onInstance_decodeWire l s.params s.sel b).symm

theorem Link.Inv.hasCrcInFrame {l : Link} (h : l.Inv) : l.HasCrcInFrame := fun hb => by
  obtain ⟨-, -, hrx, -⟩ := h.1 hb
  exact hrx

/-- Settles O11: with R28 (c) the one fault of a received byte cannot happen, and it keeps to the parser's side. -/
theorem rxByteAlwaysCompletes : Obligations.RxByteAlwaysCompletes := by
  intro s l b hs hl
  obtain ⟨l', h, -⟩ := Link.rxByte_completes (hs l (List.mem_of_getElem? hl)).hasCrcInFrame s.params b
  obtain ⟨hconfig, hengine⟩ := Link.wire_frame h
  have hexec : exec (.rxByte b) s = .next (s.putLink l') := exec_of_sel hl h
  exact ⟨_, l', hexec, State.putLink_get l' s l hl, hconfig, hengine, exec_outsideKept hexec⟩

/-- A wire row hands the parser its byte in the class its row names: START's and END's are theirs alone. -/
theorem onInstance_of_wireRow {i : Instr} (h : i.format = .wireByte) :
    ∃ c, (∀ p k l, onInstance i p k l = l.wire p c ((wireByte? l.markers i).getD 0)) ∧
      (c = .start → i = .startMark) ∧ (c = .fin → i = .endMark) := by
  cases i <;> cases h <;> exact ⟨_, fun _ _ _ => rfl, by simp, by simp⟩

theorem classify_eq_start {m : Markers} {b : Byte} (h : classify m b = .start) : b = m.start := by
  unfold classify at h
  split at h
  · assumption
  split at h
  · cases h
  split at h
  · cases h
  · split at h <;> cases h

theorem classify_eq_fin {m : Markers} {b : Byte} (h : classify m b = .fin) : b = m.fin := by
  unfold classify at h
  split at h
  · cases h
  split at h
  · cases h
  split at h
  · assumption
  · split at h <;> cases h

section
variable {s : State} {l : Link} (hl : s.links[s.sel]? = some l) (hb : l.bound = true)
include hl hb

/-- An instruction that hands a created instance's parser a byte. -/
theorem exec_of_receive {i : Instr} {c : ByteClass} {b : Byte} {l' : Link}
    (hi : onInstance i s.params s.sel l = l.wire s.params c b) (h : l.receive s.params c b = .next l') :
    exec i s = .next (s.putLink l') := by
  rw [← Link.wire_of_bound hb, ← hi] at h
  exact exec_of_sel hl h

theorem exec_sepMark_of_bound : exec .sepMark s = .next (s.putLink (l.onSep s.params l.fieldSeparator)) :=
  exec_of_receive hl hb rfl rfl

theorem exec_endMark_of_bound {l' : Link} (h : l.onEnd = .next l') : exec .endMark s = .next (s.putLink l') :=
  exec_of_receive hl hb rfl h

theorem exec_other_of_bound (b : Byte) : exec (.other b) s = .next (s.putLink l.onOther) :=
  exec_of_receive hl hb rfl rfl

end

/-! ## START, and the bytes dropped in `Idle` -/

theorem Link.rxByte_startByte {l : Link} (hb : l.bound = true) (p : Params) : l.rxByte p l.startByte = .next l.reArm :=
  Link.rxByte_of_classify hb p (classify_start l.markers)

/-- Settles O26: START is looked at before the phase. -/
theorem startRearmsInEveryPhase : Obligations.StartRearmsInEveryPhase := by
  rintro s l hl hb i (rfl | rfl)
  · exact exec_of_receive hl hb rfl rfl
  · exact exec_of_sel hl (Link.rxByte_startByte hb s.params)

theorem Link.rxByte_of_idle {l : Link} (hb : l.bound = true) (hphase : l.phase = .idle) (p : Params) {b : Byte}
    (h : b ≠ l.startByte) : l.rxByte p b = .next l := by
  rw [Link.rxByte_of_classify hb p rfl]
  exact Link.receive_of_idle hphase p (mt classify_eq_start h) b

/-- Settles O27: no row but START's, and no byte but the start byte, is of class START. -/
theorem idleDropsEveryByteButStart : Obligations.IdleDropsEveryByteButStart := by
  intro s l hl hb hphase
  have hself : s.putLink l = s := State.putLink_self l s hl
  refine ⟨fun i hf _ hi => ?_, fun b hne => ?_⟩
  · obtain ⟨c, hc, hstart, -⟩ := onInstance_of_wireRow hf
    have hexec := exec_of_receive hl hb (hc ..) (Link.receive_of_idle hphase s.params (mt hstart hi) _)
    rwa [hself] at hexec
  · have hexec : exec (.rxByte b) s = .next (s.putLink l) := exec_of_sel hl (Link.rxByte_of_idle hb hphase s.params hne)
    rwa [hself] at hexec

/-! ## SEP -/

theorem Link.onSep_of_readCommand {l : Link} (h : l.phase = .readCommand) (p : Params) (b : Byte) :
    l.onSep p b = (l.foldRx b).clearAcc.selectCommand p l.acc := by rw [Link.onSep, h]

theorem Link.onSep_of_readMotorValues {l : Link} (h : l.phase = .readMotorValues) (p : Params) (b : Byte) :
    l.onSep p b = (l.foldRx b).clearAcc.commitMotor l.acc := by rw [Link.onSep, h]

theorem Link.onSep_of_readPidAngle {l : Link} (h : l.phase = .readPidAngle) (p : Params) (b : Byte) :
    l.onSep p b = (l.foldRx b).clearAcc.commitPid p l.acc := by rw [Link.onSep, h]

theorem Link.onSep_of_validateChecksum {l : Link} (h : l.phase = .validateChecksum) (p : Params) (b : Byte) :
    l.onSep p b = l.error .invalidSign := by rw [Link.onSep, h]

theorem Link.selectCommand_of_some {l : Link} {p : Params} {v : Word} {tag : CommandTag} (h : commandOf p v = some tag) :
    l.selectCommand p v =
      { l with currentCommand := tag, record := .blankOf tag, fieldIndex := 0, phase := .payloadOf tag } := by
  rw [Link.selectCommand, h]

theorem Link.selectCommand_of_none {l : Link} {p : Params} {v : Word} (h : commandOf p v = none) :
    l.selectCommand p v = l.error .unknownCommand := by rw [Link.selectCommand, h]

/-- R83's guard. -/
theorem Link.commitMotor_of_ge {l : Link} (h : Config.payloadFields ≤ l.fieldIndex.toNat) (v : Word) :
    l.commitMotor v = l.error .internalError := if_pos h

/-- R86's guard. -/
theorem Link.commitPid_of_ge {l : Link} (h : Config.payloadFields ≤ l.fieldIndex.toNat) (p : Params) (v : Word) :
    l.commitPid p v = l.error .internalError := if_pos h

/-- R86's selector check. -/
theorem Link.commitPid_of_unknown {l : Link} (h : l.fieldIndex = 0#8) {p : Params} {v : Word}
    (hsub : isSubCommand p v = false) : l.commitPid p v = l.error .unknownCommand := by
  rw [Link.commitPid, if_neg (by rw [h]; decide), if_pos ⟨h, hsub⟩]

/-- Settles O28: by the command the accumulator's value selects. -/
theorem separatorSelectsTheCommand : Obligations.SeparatorSelectsTheCommand := by
  intro s l hl hb hphase
  rw [exec_sepMark_of_bound hl hb, Link.onSep_of_readCommand hphase]
  refine ⟨fun hmotor => ?_, fun hmotor hpid => ?_, fun hmotor hpid => ?_⟩
  · have htag : commandOf s.params l.acc = some .motor := if_pos hmotor
    rw [Link.selectCommand_of_some htag]
    rfl
  · have htag : commandOf s.params l.acc = some .pid := by rw [commandOf, if_neg hmotor, if_pos hpid]
    rw [Link.selectCommand_of_some htag]
    rfl
  · have htag : commandOf s.params l.acc = none := by rw [commandOf, if_neg hmotor, if_neg hpid]
    rw [Link.selectCommand_of_none htag]
    rfl

/-- A separator that commits a motor field, with the field's number `k` (R83). -/
theorem Link.onSep_motor {l : Link} {k : BitVec 8} {r : Record} (hphase : l.phase = .readMotorValues)
    (hr : l.record = r) (hk : l.fieldIndex = k) (hlt : k.toNat < Config.payloadFields) (p : Params) (b : Byte) :
    l.onSep p b = Link.nextField
      { l with rx := fold l.rx b, acc := 0, fieldIndex := k, record := r.setMotor k (motorValue l.acc) } := by
  subst hr hk
  rw [Link.onSep_of_readMotorValues hphase, Link.commitMotor_of_lt (l := (l.foldRx b).clearAcc) hlt]
  rfl

/-- Settles O29: by the field index. -/
theorem separatorCommitsAMotorField : Obligations.SeparatorCommitsAMotorField := by
  intro s l m1 m2 m3 m4 hl hb hphase hr v
  rw [exec_sepMark_of_bound hl hb]
  refine ⟨fun hk => ?_, fun hk => ?_, fun hk => ?_, fun hk => ?_, fun hk => ?_⟩
  iterate 4
    · rw [Link.onSep_motor hphase hr hk (by decide)]
      rfl
  · rw [Link.onSep_of_readMotorValues hphase, Link.commitMotor_of_ge (l := (l.foldRx _).clearAcc) hk]
    rfl

/-- A separator that commits a PID field, with the field's number `k` (R86). -/
theorem Link.onSep_pid {l : Link} {k : BitVec 8} {r : Record} {p : Params} (hphase : l.phase = .readPidAngle)
    (hr : l.record = r) (hk : l.fieldIndex = k) (hlt : k.toNat < Config.payloadFields)
    (hsub : k = 0#8 → isSubCommand p l.acc = true) (b : Byte) :
    l.onSep p b = Link.nextField
      { l with rx := fold l.rx b, acc := 0, fieldIndex := k, record := r.setPid k l.acc } := by
  subst hr hk
  rw [Link.onSep_of_readPidAngle hphase, Link.commitPid_of_lt (l := (l.foldRx b).clearAcc) hlt hsub]
  rfl

theorem Record.setPid_pidAngle_zero (sub : Byte) (a b c v : Word) :
    (Record.pidAngle sub a b c).setPid 0#8 v = .pidAngle (subCommandValue v) a b c := rfl

/-- Settles O30: by the field index, and at 0 by whether the value is one of the three codes. -/
theorem separatorCommitsAPidField : Obligations.SeparatorCommitsAPidField := by
  intro s l sub a b c hl hb hphase hr
  rw [exec_sepMark_of_bound hl hb]
  refine ⟨fun code hcode hk hacc => ?_, fun hk h1 h2 h3 => ?_, fun hk => ?_, fun hk => ?_, fun hk => ?_, fun hk => ?_⟩
  · have hsub : isSubCommand s.params l.acc = true := hacc ▸ isSubCommand_of_code hcode
    rw [Link.onSep_pid hphase hr hk (by decide) fun _ => hsub, hacc, Record.setPid_pidAngle_zero, subCommandValue_setWidth]
    rfl
  · have hsub : isSubCommand s.params l.acc = false := by simp [isSubCommand, h1, h2, h3]
    rw [Link.onSep_of_readPidAngle hphase, Link.commitPid_of_unknown (l := (l.foldRx _).clearAcc) hk hsub]
    rfl
  iterate 3
    · rw [Link.onSep_pid hphase hr hk (by decide) (by simp)]
      rfl
  · rw [Link.onSep_of_readPidAngle hphase, Link.commitPid_of_ge (l := (l.foldRx _).clearAcc) hk]
    rfl

/-! ## END and OTHER -/

theorem Link.onEnd_of_validateChecksum {l : Link} (h : l.phase = .validateChecksum) {c : Half} (hrx : l.rx = some c) :
    l.onEnd = .next (l.endFrame c) := by rw [Link.onEnd, h, hrx]

theorem checksumMatches_iff {v : Word} {c : Half} : checksumMatches v c = true ↔ v = c.setWidth 32 := beq_iff_eq

/-- The end of a frame whose checksum is right (R89, R95). -/
theorem Link.endFrame_of_eq {l : Link} {c : Half} (h : l.acc = c.setWidth 32) :
    l.endFrame c = { l with acc := 0, status := .ok, fieldIndex := 0, phase := .idle,
                            records := l.records ++ [l.record.out] } := by
  rw [Link.endFrame, checksumMatches_iff.mpr h]
  rfl

/-- The end of a frame whose checksum is wrong (R89). -/
theorem Link.endFrame_of_ne {l : Link} {c : Half} (h : l.acc ≠ c.setWidth 32) :
    l.endFrame c = { l with acc := 0, status := .checksumError, fieldIndex := 0, phase := .idle } := by
  rw [Link.endFrame, Bool.eq_false_iff.mpr (mt checksumMatches_iff.mp h)]
  rfl

/-- Settles O31: by whether the checksum is right. -/
theorem endComparesTheChecksum : Obligations.EndComparesTheChecksum := by
  intro s l c hl hb hphase hrx
  rw [exec_endMark_of_bound hl hb (Link.onEnd_of_validateChecksum hphase hrx)]
  refine ⟨fun hacc => ?_, fun hacc => ?_⟩
  · rw [Link.endFrame_of_eq hacc]
    rfl
  · rw [Link.endFrame_of_ne hacc]
    rfl

theorem Link.onEnd_of_folds {l : Link} (h : l.phase.folds) : l.onEnd = .next (l.error .invalidSign) := by
  obtain h | h | h := h <;> rw [Link.onEnd, h]

theorem Link.onOther_of_reading {l : Link} (h : l.phase ≠ .idle) : l.onOther = l.error .invalidSign := by
  unfold Link.onOther
  split
  · contradiction
  all_goals rfl

/-- Settles O32: by the byte's row. -/
theorem unacceptedBytesEndTheFrame : Obligations.UnacceptedBytesEndTheFrame := by
  rintro s l i hl hb (⟨rfl, hphase⟩ | ⟨rfl, hphase⟩ | ⟨⟨b, rfl, -⟩, hphase⟩)
  · exact exec_endMark_of_bound hl hb (Link.onEnd_of_folds hphase)
  · rw [exec_sepMark_of_bound hl hb, Link.onSep_of_validateChecksum hphase]
    rfl
  · rw [exec_other_of_bound hl hb, Link.onOther_of_reading hphase]
    rfl

end Sys2Proof.Machine
end

section
/-! SUPPORT. Byte strings through the parser: an inert instance drops them (R92), and the receive CRC is that of the bytes since the
start byte wherever the phase folds (R94). -/

namespace Sys2Proof.Machine

open Sys2Proof

/-! ## What feeding a byte string keeps -/

/-- A byte string in two parts completes part by part. -/
theorem Link.feed_append_eq_next {p : Params} {l l' : Link} {a bytes : List Byte}
    (h : l.feed p (a ++ bytes) = .next l') : ∃ l1, l.feed p a = .next l1 ∧ l1.feed p bytes = .next l' := by
  induction a generalizing l with
  | nil => exact ⟨l, rfl, h⟩
  | cons b a ih =>
    obtain ⟨l1, h1, h⟩ := Link.feed_cons_eq_next h
    obtain ⟨l2, h2, h⟩ := ih h
    exact ⟨l2, (Link.feed_cons_of_next h1 a).trans h2, h⟩

/-- What every received byte keeps, a byte string keeps. -/
theorem Link.feed_sameConfig {p : Params} {l l' : Link} {bytes : List Byte} (h : l.feed p bytes = .next l') :
    l.SameConfig l' := by
  induction bytes generalizing l with
  | nil => cases h; simp [Link.SameConfig]
  | cons b bytes ih =>
    obtain ⟨l1, h1, h⟩ := Link.feed_cons_eq_next h
    obtain ⟨⟨hbound, hstart, hsep, hend⟩, -⟩ := Link.wire_frame h1
    obtain ⟨hbound', hstart', hsep', hend'⟩ := ih h
    exact ⟨hbound'.trans hbound, hstart'.trans hstart, hsep'.trans hsep, hend'.trans hend⟩

theorem Link.SameConfig.markers_eq {l l' : Link} (h : l.SameConfig l') : l'.markers = l.markers := by
  obtain ⟨-, hstart, hsep, hend⟩ := h
  rw [Link.markers, Link.markers, hstart, hsep, hend]

/-- After its start byte a created instance completes every byte string (R76, R77). -/
theorem Link.feed_start_completes {l : Link} (hb : l.bound = true) (p : Params) (bytes : List Byte) :
    ∃ l', l.reArm.feed p bytes = .next l' ∧ l.feed p (l.startByte :: bytes) = .next l' := by
  obtain ⟨l', h⟩ := Link.feed_completes (l := l.reArm) (fun _ _ => by simp) p bytes
  exact ⟨l', h, (Link.feed_cons_of_next (Link.rxByte_startByte hb p) bytes).trans h⟩

/-! ## An inert instance -/

theorem Link.feed_of_idle {l : Link} (hb : l.bound = true) (hphase : l.phase = .idle) (p : Params) {bytes : List Byte}
    (h : l.startByte ∉ bytes) : l.feed p bytes = .next l := by
  induction bytes with
  | nil => rfl
  | cons b bytes ih =>
    obtain ⟨hne, hbytes⟩ := List.ne_and_not_mem_of_not_mem_cons h
    rw [Link.feed_cons_of_next (Link.rxByte_of_idle hb hphase p (Ne.symm hne)), ih hbytes]

/-- Settles O35: each byte is dropped, so the instance is written back as it was. -/
theorem inertUntilTheNextStartByte : Obligations.InertUntilTheNextStartByte := by
  intro s k l bytes rest hi hne hl hb hphase hstart
  rw [run_wire bytes hne hi hl (Link.feed_of_idle hb hphase s.params hstart),
    State.putLink_self l (s.address k (waiting rest)) hl]

/-! ## The receive CRC of one byte -/

@[simp] theorem Link.selectCommand_rx (l : Link) (p : Params) (v : Word) : (l.selectCommand p v).rx = l.rx := by
  unfold Link.selectCommand
  split <;> rfl

@[simp] theorem Link.commitMotor_rx (l : Link) (v : Word) : (l.commitMotor v).rx = l.rx := by
  unfold Link.commitMotor
  split <;> rfl

@[simp] theorem Link.commitPid_rx (l : Link) (p : Params) (v : Word) : (l.commitPid p v).rx = l.rx := by
  unfold Link.commitPid
  split
  · rfl
  · split <;> rfl

/-- A separator after which a frame is still in flight was folded (R80, R83, R86, R90). -/
theorem Link.onSep_of_reading {l : Link} {p : Params} {b : Byte} (h : (l.onSep p b).phase ≠ .idle) :
    l.phase.folds ∧ (l.onSep p b).rx = fold l.rx b := by
  cases hphase : l.phase with
  | idle => rw [Link.onSep, hphase] at h; exact absurd hphase h
  | validateChecksum => rw [Link.onSep_of_validateChecksum hphase] at h; exact absurd rfl h
  | readCommand => rw [Link.onSep_of_readCommand hphase]; exact ⟨.inl rfl, by simp⟩
  | readMotorValues => rw [Link.onSep_of_readMotorValues hphase]; exact ⟨.inr (.inl rfl), by simp⟩
  | readPidAngle => rw [Link.onSep_of_readPidAngle hphase]; exact ⟨.inr (.inr rfl), by simp⟩

theorem Phase.folds.ne_idle {ph : Phase} (h : ph.folds) : ph ≠ .idle := by
  obtain rfl | rfl | rfl := h <;> decide

/-- A digit keeps the phase. -/
theorem Link.onHex_phase (l : Link) (b : Byte) (d : Nibble) : (l.onHex b d).phase = l.phase := (l.onHex_sameShape b d).2.1

theorem Link.onOther_phase (l : Link) : l.onOther.phase = .idle := by
  by_cases h : l.phase = .idle
  · rwa [Link.onOther, h]
  · rw [Link.onOther_of_reading h, Link.error_phase]

/-- END ends every frame. -/
theorem Link.onEnd_phase {l l' : Link} (h : l.onEnd = .next l') : l'.phase = .idle := by
  unfold Link.onEnd at h
  cases hphase : l.phase with
  | idle => rw [hphase] at h; cases h; exact hphase
  | readCommand | readMotorValues | readPidAngle => rw [hphase] at h; cases h; rfl
  | validateChecksum =>
    cases hrx : l.rx with
    | none => simp [hphase, hrx] at h
    | some c =>
      simp only [hphase, hrx] at h
      cases h
      unfold Link.endFrame
      cases checksumMatches l.acc c <;> rfl

/-- A phase that folds is kept up by folded bytes alone: any other byte but START ends the frame or finds none. -/
theorem Link.receive_of_folds {l l' : Link} {p : Params} {c : ByteClass} {b : Byte} (hc : c ≠ .start)
    (h : l.receive p c b = .next l') (hfolds : l'.phase.folds) : l.phase.folds ∧ l'.rx = fold l.rx b := by
  cases c with
  | start => exact absurd rfl hc
  | sep => cases h; exact Link.onSep_of_reading hfolds.ne_idle
  | fin => exact absurd (Link.onEnd_phase h) hfolds.ne_idle
  | other => cases h; exact absurd l.onOther_phase hfolds.ne_idle
  | hex d =>
    cases h
    rw [Link.onHex_phase] at hfolds
    rw [Link.onHex_of_folds hfolds]
    exact ⟨hfolds, rfl⟩

/-! ## The receive CRC of a frame -/

/-- Where the phase folds, the receive CRC is that of all bytes since the start byte (R94). -/
theorem Link.feed_rx_of_folds {p : Params} {l l' : Link} (hb : l.bound = true) {before bytes : List Byte}
    (hstart : l.startByte ∉ bytes) (hrx : l.phase.folds → l.rx = some (crc before)) (h : l.feed p bytes = .next l')
    (hfolds : l'.phase.folds) : l'.rx = some (crc (before ++ bytes)) := by
  induction bytes generalizing l before with
  | nil => cases h; rw [List.append_nil, hrx hfolds]
  | cons b bytes ih =>
    obtain ⟨hne, hbytes⟩ := List.ne_and_not_mem_of_not_mem_cons hstart
    obtain ⟨l1, h1, h⟩ := Link.feed_cons_eq_next h
    obtain ⟨⟨hbound, hstart1, -⟩, -⟩ := Link.wire_frame h1
    rw [Link.rxByte_of_classify hb p rfl] at h1
    rw [List.append_cons]
    refine ih (hbound.trans hb) (hstart1 ▸ hbytes) (fun hfolds1 => ?_) h
    obtain ⟨hfolds0, hrx1⟩ := Link.receive_of_folds (fun hc => hne (classify_eq_start hc).symm) h1 hfolds1
    rw [hrx1, hrx hfolds0, fold_some, crc_append_singleton]

/-- Digits that lead to the checksum field are all of it, and leave the receive CRC alone (R88). -/
theorem Link.feed_digits_of_validateChecksum {p : Params} {l l' : Link} (hb : l.bound = true)
    (hm : l.markers.legal = true) {digits : List Byte} (hd : AllHex digits) (h : l.feed p digits = .next l')
    (hphase : l'.phase = .validateChecksum) : l.phase = .validateChecksum ∧ l'.rx = l.rx := by
  induction digits generalizing l with
  | nil => cases h; exact ⟨hphase, rfl⟩
  | cons b digits ih =>
    obtain ⟨hhex, hd⟩ := List.forall_mem_cons.mp hd
    obtain ⟨l1, h1, h⟩ := Link.feed_cons_eq_next h
    have hconfig := (Link.wire_frame h1).1
    rw [Link.rxByte_of_classify hb p (classify_of_isHex hm hhex)] at h1
    obtain ⟨hphase1, hrx⟩ := ih (hconfig.1.trans hb) (hconfig.markers_eq ▸ hm) hd h
    cases h1
    rw [Link.onHex_phase] at hphase1
    rw [hrx, Link.onHex_of_validateChecksum hphase1]
    exact ⟨hphase1, rfl⟩

/-- The receive CRC at the checksum field, after the start byte (R94): the separator was folded, so every byte before it was. -/
theorem Link.feed_frame_rx {p : Params} {l l' : Link} (hb : l.bound = true) (hm : l.markers.legal = true)
    {body digits : List Byte} (hbody : l.startByte ∉ body) (hd : AllHex digits)
    (h : l.reArm.feed p (body ++ ([l.fieldSeparator] ++ digits)) = .next l') (hphase : l'.phase = .validateChecksum) :
    l'.rx = some (crc (body ++ [l.fieldSeparator])) := by
  obtain ⟨l1, h1, h⟩ := Link.feed_append_eq_next h
  obtain ⟨l2, h2, h3⟩ := Link.feed_cons_eq_next h
  have hconfig1 : l.SameConfig l1 := Link.feed_sameConfig (l := l.reArm) h1
  have hconfig2 := (Link.wire_frame h2).1
  have hb1 : l1.bound = true := hconfig1.1.trans hb
  have hm1 : l1.markers.legal = true := hconfig1.markers_eq ▸ hm
  have hclass : classify l1.markers l.fieldSeparator = .sep := by
    rw [hconfig1.markers_eq]
    exact classify_sep hm
  rw [Link.rxByte_of_classify hb1 p hclass] at h2
  obtain ⟨hphase2, hrx⟩ :=
    Link.feed_digits_of_validateChecksum (hconfig2.1.trans hb1) (hconfig2.markers_eq ▸ hm1) hd h3 hphase
  cases h2
  obtain ⟨hfolds, hrx2⟩ := Link.onSep_of_reading (l := l1) (by rw [hphase2]; decide)
  have hrx1 : l1.rx = some (crc ([] ++ body)) := Link.feed_rx_of_folds (l := l.reArm) hb hbody (fun _ => rfl) h1 hfolds
  rw [hrx, hrx2, hrx1, fold_some, List.nil_append, crc_append_singleton]

/-- Settles O37: the run feeds the frame to its instance, and the start byte begins the CRC afresh. -/
theorem receiveCrcCoversCommandAndPayload : Obligations.ReceiveCrcCoversCommandAndPayload := by
  intro s s' k l l' body digits rest hl hb hm hbody hd hi hrun hl' hphase
  have hbytes : [l.startByte] ++ body ++ [l.fieldSeparator] ++ digits =
      l.startByte :: (body ++ ([l.fieldSeparator] ++ digits)) := by simp
  obtain ⟨m, hm', hfeed⟩ := Link.feed_start_completes hb s.params (body ++ ([l.fieldSeparator] ++ digits))
  rw [hbytes] at hi hrun
  rw [run_wire _ (by simp) hi hl hfeed] at hrun
  cases hrun
  obtain rfl : m = l' := Option.some.inj ((State.putLink_get m (s.address k _) l hl).symm.trans hl')
  exact Link.feed_frame_rx hb hm hbody hd hm' hphase

end Sys2Proof.Machine
end

section
/-! SUPPORT. When a record goes out (R95): at the end byte of a frame whose checksum is right. -/

namespace Sys2Proof.Machine

open Sys2Proof

/-- The end of a frame whose checksum is right, and its record out (R89, R95). -/
def Link.EmitsRecord (l l' : Link) : Prop :=
  ∃ c : Half, l.phase = .validateChecksum ∧ l.rx = some c ∧ l.acc = c.setWidth 32 ∧ l'.status = .ok ∧
    l'.phase = .idle ∧ l'.records = l.records ++ [l.record.out]

theorem Link.onEnd_records {l l' : Link} (h : l.onEnd = .next l') : l'.records = l.records ∨ l.EmitsRecord l' := by
  cases hphase : l.phase with
  | idle | readCommand | readMotorValues | readPidAngle => rw [Link.onEnd, hphase] at h; cases h; exact .inl rfl
  | validateChecksum =>
    cases hrx : l.rx with
    | none => simp [Link.onEnd, hphase, hrx] at h
    | some c =>
      rw [Link.onEnd_of_validateChecksum hphase hrx] at h
      cases h
      by_cases hacc : l.acc = c.setWidth 32
      · rw [Link.endFrame_of_eq hacc]
        exact .inr ⟨c, hphase, hrx, hacc, rfl, rfl, rfl⟩
      · rw [Link.endFrame_of_ne hacc]
        exact .inl rfl

/-- Of the byte classes END alone lets a record out. -/
theorem Link.wire_records {l l' : Link} {p : Params} {c : ByteClass} {b : Byte} (h : l.wire p c b = .next l') :
    l'.records = l.records ∨ (c = .fin ∧ l.bound = true ∧ l.EmitsRecord l') := by
  obtain ⟨-, h⟩ | ⟨hb, h⟩ := Link.ifBound_eq_next.mp h
  · cases h; exact .inl rfl
  · cases c with
    | start => cases h; exact .inl rfl
    | sep => cases h; exact .inl (l.onSep_frame p b).2.2
    | hex d => cases h; exact .inl (l.onHex_frame b d).2.2
    | other => cases h; exact .inl l.onOther_frame.2.2
    | fin => exact (Link.onEnd_records h).imp_right fun hemits => ⟨rfl, hb, hemits⟩

/-- No instruction but END, as its row or as RX_BYTE, lets a record out. -/
theorem onInstance_records {i : Instr} {p : Params} {k : Nat} {l l' : Link} (h : onInstance i p k l = .next l') :
    l'.records = l.records ∨ ((i = .endMark ∨ i = .rxByte l.endByte) ∧ l.bound = true ∧ l.EmitsRecord l') := by
  have engine (hi : engineOp i = true) : l'.records = l.records := by
    have hself : l' = l.withEngine l' := Host.Outcome.next.inj (h.symm.trans (onInstance_withParser hi h l))
    rw [hself]
    rfl
  induction i using instr_by_row with
  | create s u e =>
    obtain ⟨-, -, rfl⟩ := Link.create_eq_next.mp h
    exact .inl rfl
  | lastError => obtain ⟨-, h⟩ | ⟨-, h⟩ := Link.ifBound_eq_next.mp h <;> cases h <;> exact .inl rfl
  | crcReset | crcUpdate b | crcValue | frame cap payload => exact .inl (engine rfl)
  | rxByte b =>
    refine (Link.wire_records h).imp_right fun ⟨hc, hemits⟩ => ⟨.inr ?_, hemits⟩
    rw [classify_eq_fin hc]
    rfl
  | wire i hi =>
    obtain ⟨c, hwire, -, hend⟩ := onInstance_of_wireRow hi
    exact (Link.wire_records (hwire p k l ▸ h)).imp_right fun ⟨hc, hemits⟩ => ⟨.inl (hend hc), hemits⟩

/-- Settles O45: the instruction is its action on the instance. -/
theorem recordsGoOutOnlyForValidFrames : Obligations.RecordsGoOutOnlyForValidFrames := by
  intro i s s' l l' hexec hl hl'
  obtain hkept | ⟨hi, hb, c, hphase, hrx, hacc, hstatus, hphase', hrecords⟩ :=
    onInstance_records (onInstance_of_exec_next hexec hl hl')
  · exact .inl hkept
  · exact .inr ⟨c, hi, hb, hphase, hrx, hacc, hstatus, hphase', hrecords⟩

end Sys2Proof.Machine
end

section
/-! SUPPORT. A start byte wipes out the past (R93): two instances after it agree but for the engine's side, which the parser never
reads, and the records out so far, which it only adds to. -/

namespace Sys2Proof.Machine

open Sys2Proof

/-! ## Two instances fed alike -/

/-- A relation that every received byte carries over is carried over by a byte string. -/
theorem Link.feed_simulates {p : Params} {R : Link → Link → Prop}
    (hstep : ∀ {l m l' : Link} {b : Byte}, R l m → l.rxByte p b = .next l' → ∃ m', m.rxByte p b = .next m' ∧ R l' m')
    {l m l' : Link} {bytes : List Byte} (h : R l m) (hf : l.feed p bytes = .next l') :
    ∃ m', m.feed p bytes = .next m' ∧ R l' m' := by
  induction bytes generalizing l m with
  | nil => cases hf; exact ⟨m, rfl, h⟩
  | cons b bytes ih =>
    obtain ⟨l1, h1, hf⟩ := Link.feed_cons_eq_next hf
    obtain ⟨m1, hm1, hR⟩ := hstep h h1
    rw [Link.feed_cons_of_next hm1]
    exact ih hR hf

/-- What commutes with every received byte commutes with a byte string. -/
theorem Link.feed_map {p : Params} {f : Link → Link}
    (hstep : ∀ {l l' : Link} {b : Byte}, l.rxByte p b = .next l' → (f l).rxByte p b = .next (f l'))
    {l l' : Link} {bytes : List Byte} (h : l.feed p bytes = .next l') : (f l).feed p bytes = .next (f l') := by
  obtain ⟨m', hm', rfl⟩ := Link.feed_simulates (R := fun l m => m = f l) (m := f l)
    (fun hR h1 => ⟨_, hR ▸ hstep h1, rfl⟩) rfl h
  exact hm'

theorem Link.feed_withEngine {p : Params} {l l' : Link} {bytes : List Byte} (h : l.feed p bytes = .next l') (m : Link) :
    (l.withEngine m).feed p bytes = .next (l'.withEngine m) :=
  Link.feed_map (f := fun l => l.withEngine m) (fun h1 => Link.wire_withEngine h1 m) h

/-- Instances that agree are fed alike. -/
theorem Link.Agree.feed {p : Params} {l m l' : Link} {bytes : List Byte} (h : l.Agree m)
    (hf : l.feed p bytes = .next l') : ∃ m', m.feed p bytes = .next m' ∧ l'.Agree m' := by
  refine Link.feed_simulates (R := Link.Agree) (fun {l m l' b} hlm h1 => ?_) h hf
  have hbyte : AgreeingLinks (l.rxByte p b) (m.rxByte p b) := hlm.onInstance (.rxByte b) p 0
  rw [h1] at hbyte
  cases hm : m.rxByte p b with
  | next m' => rw [hm] at hbyte; exact ⟨m', rfl, hbyte⟩
  | fault r | refused r => rw [hm] at hbyte; exact hbyte.elim

/-! ## The records out so far -/

/-- `l` with the records `old` out before its own. -/
def Link.after (l : Link) (old : List RecordOut) : Link := { l with records := old ++ l.records }

@[simp] theorem Link.after_phase (l : Link) (old : List RecordOut) : (l.after old).phase = l.phase := rfl
@[simp] theorem Link.after_rx (l : Link) (old : List RecordOut) : (l.after old).rx = l.rx := rfl
@[simp] theorem Link.after_fieldIndex (l : Link) (old : List RecordOut) : (l.after old).fieldIndex = l.fieldIndex := rfl

theorem Link.selectCommand_after (l : Link) (old : List RecordOut) (p : Params) (v : Word) :
    (l.after old).selectCommand p v = (l.selectCommand p v).after old := by
  unfold Link.selectCommand
  cases commandOf p v <;> rfl

theorem Link.commitMotor_after (l : Link) (old : List RecordOut) (v : Word) :
    (l.after old).commitMotor v = (l.commitMotor v).after old := by
  unfold Link.commitMotor
  rw [Link.after_fieldIndex]
  split <;> rfl

theorem Link.commitPid_after (l : Link) (old : List RecordOut) (p : Params) (v : Word) :
    (l.after old).commitPid p v = (l.commitPid p v).after old := by
  unfold Link.commitPid
  rw [Link.after_fieldIndex]
  split
  · rfl
  · split <;> rfl

theorem Link.onSep_after (l : Link) (old : List RecordOut) (p : Params) (b : Byte) :
    (l.after old).onSep p b = (l.onSep p b).after old := by
  unfold Link.onSep
  rw [Link.after_phase]
  cases l.phase with
  | idle | validateChecksum => rfl
  | readCommand => exact (l.foldRx b).clearAcc.selectCommand_after old p l.acc
  | readMotorValues => exact (l.foldRx b).clearAcc.commitMotor_after old l.acc
  | readPidAngle => exact (l.foldRx b).clearAcc.commitPid_after old p l.acc

theorem Link.onHex_after (l : Link) (old : List RecordOut) (b : Byte) (d : Nibble) :
    (l.after old).onHex b d = (l.onHex b d).after old := by
  unfold Link.onHex
  rw [Link.after_phase]
  cases l.phase <;> rfl

theorem Link.onOther_after (l : Link) (old : List RecordOut) : (l.after old).onOther = l.onOther.after old := by
  unfold Link.onOther
  rw [Link.after_phase]
  cases l.phase <;> rfl

/-- The record of a frame that ends goes out after all others. -/
theorem Link.endFrame_after (l : Link) (old : List RecordOut) (c : Half) :
    (l.after old).endFrame c = (l.endFrame c).after old := by
  by_cases hacc : l.acc = c.setWidth 32
  · rw [Link.endFrame_of_eq hacc, Link.endFrame_of_eq (l := l.after old) hacc]
    simp [Link.after]
  · rw [Link.endFrame_of_ne hacc, Link.endFrame_of_ne (l := l.after old) hacc]
    rfl

theorem Link.onEnd_after {l l' : Link} (h : l.onEnd = .next l') (old : List RecordOut) :
    (l.after old).onEnd = .next (l'.after old) := by
  unfold Link.onEnd at h ⊢
  rw [Link.after_phase, Link.after_rx]
  cases hphase : l.phase with
  | idle | readCommand | readMotorValues | readPidAngle => rw [hphase] at h; cases h; rfl
  | validateChecksum =>
    cases hrx : l.rx with
    | none => simp [hphase, hrx] at h
    | some c => simp only [hphase, hrx] at h; cases h; exact congrArg _ (l.endFrame_after old c)

theorem Link.receive_after {l l' : Link} {p : Params} {c : ByteClass} {b : Byte} (h : l.receive p c b = .next l')
    (old : List RecordOut) : (l.after old).receive p c b = .next (l'.after old) := by
  cases c with
  | start => cases h; rfl
  | sep => cases h; exact congrArg _ (l.onSep_after old p b)
  | fin => exact Link.onEnd_after h old
  | hex d => cases h; exact congrArg _ (l.onHex_after old b d)
  | other => cases h; exact congrArg _ (l.onOther_after old)

theorem Link.rxByte_after {l l' : Link} {p : Params} {b : Byte} (h : l.rxByte p b = .next l') (old : List RecordOut) :
    (l.after old).rxByte p b = .next (l'.after old) := by
  obtain ⟨hb, h⟩ | ⟨hb, h⟩ := Link.ifBound_eq_next.mp h
  · cases h
    exact Link.wire_of_unbound (l := l.after old) hb p _ b
  · exact (Link.wire_of_bound (l := l.after old) hb p _ b).trans (Link.receive_after h old)

theorem Link.feed_after {p : Params} {l l' : Link} {bytes : List Byte} (h : l.feed p bytes = .next l')
    (old : List RecordOut) : (l.after old).feed p bytes = .next (l'.after old) :=
  Link.feed_map (f := fun l => l.after old) (fun h1 => Link.rxByte_after h1 old) h

/-! ## The statement -/

/-- `l` just after a start byte, with no record out yet. -/
def Link.fresh (l : Link) : Link := { l.reArm with records := [] }

theorem Link.fresh_after (l : Link) : l.fresh.after l.records = l.reArm := by
  simp [Link.after, Link.fresh, Link.reArm]

/-- After a start byte, created instances with the same markers differ in the engine's side, and in the command and the record,
which are unspecified until a command is committed (S2). -/
theorem Link.fresh_agree {l m : Link} (hl : l.bound = true) (hm : m.bound = true) (h : l.markers = m.markers) :
    l.fresh.Agree (m.fresh.withEngine l) := by
  obtain ⟨hstart, hsep, hend⟩ : l.startByte = m.startByte ∧ l.fieldSeparator = m.fieldSeparator ∧ l.endByte = m.endByte := by
    simpa [Link.markers] using h
  have hbound : l.bound = m.bound := hl.trans hm.symm
  exact ⟨hbound, rfl, rfl, rfl, rfl, rfl, rfl, fun _ => ⟨hstart, hsep, hend, rfl, rfl, rfl⟩, fun _ h => absurd rfl h⟩

/-- Two created instances with the same markers, fed the same bytes after a start byte (R93). -/
theorem Link.feed_start_agree {l m : Link} (hl : l.bound = true) (hm : m.bound = true) (h : l.markers = m.markers)
    (p : Params) (bytes : List Byte) :
    ∃ l' m' : Link, l'.bound = true ∧ l'.Agree m' ∧
      l.feed p (l.startByte :: bytes) = .next (l'.after l.records) ∧
      m.feed p (l.startByte :: bytes) = .next ((m'.after m.records).withEngine m) := by
  obtain ⟨l', hl'⟩ := Link.feed_completes (l := l.fresh) (fun _ _ => nofun) p bytes
  obtain ⟨m', hm', hagree⟩ := (Link.fresh_agree hl hm h).feed hl'
  have hstart : m.startByte = l.startByte := congrArg Markers.start h.symm
  have hfeedm := Link.feed_withEngine (Link.feed_after hm' m.records) m
  have hm0 : ((m.fresh.withEngine l).after m.records).withEngine m = m.reArm := m.fresh_after
  refine ⟨l', m', (Link.feed_sameConfig hl').1.trans hl, hagree, ?_, ?_⟩
  · rw [Link.feed_cons_of_next (Link.rxByte_startByte hl p), ← Link.fresh_after]
    exact Link.feed_after hl' l.records
  · rw [← hstart, Link.feed_cons_of_next (Link.rxByte_startByte hm p), ← hm0]
    exact hfeedm

/-- Settles O40: the two instances agree at the end, and the records each added are the same. -/
theorem aStartByteForgetsTheOldFrame : Obligations.AStartByteForgetsTheOldFrame := by
  intro s t k l m bytes rest hp hl hm hbl hbm hmarkers hs ht
  obtain ⟨l', m', hb', hagree, hfl, hfm⟩ := Link.feed_start_agree hbl hbm hmarkers s.params bytes
  obtain ⟨-, hrx, -, hphase, -, -, hrecords, hcreated, -⟩ := hagree
  obtain ⟨-, -, -, hindex, hacc, hstatus⟩ := hcreated hb'
  have hruns := run_wire _ (List.cons_ne_nil _ _) hs hl hfl
  have hrunt := run_wire _ (List.cons_ne_nil _ _) ht hm (hp ▸ hfm)
  exact ⟨_, _, _, _, l'.records, hruns, hrunt, State.putLink_get _ (s.address k _) l hl,
    State.putLink_get _ (t.address k _) m hm, hphase, hstatus, hacc, hindex, hrx, rfl,
    congrArg (m.records ++ ·) hrecords.symm⟩

end Sys2Proof.Machine
end

section
/-! SUPPORT. Link control: CREATE and LAST_ERROR (R98, R101), what an instance not created answers (R99), and the status codes
that can reach a status register or a response (R27, R100). -/

namespace Sys2Proof.Machine

open Sys2Proof

/-! ## Which statuses an instruction leaves and answers -/

/-- The codes a status register may hold (R27). -/
theorem Status.heldByParser_iff {st : Status} : st.heldByParser = true ↔
    st ∈ [Status.ok, .inProgress, .invalidSign, .unknownCommand, .checksumError, .internalError] := by
  cases st <;> decide

/-- The status register after: as it was, or one of R27's codes. -/
abbrev Link.StatusKeptOrHeld (l l' : Link) : Prop := l'.status = l.status ∨ l'.status.heldByParser = true

theorem Link.selectCommand_status (l : Link) (p : Params) (v : Word) : l.StatusKeptOrHeld (l.selectCommand p v) := by
  cases htag : commandOf p v with
  | none => rw [Link.selectCommand_of_none htag]; exact .inr rfl
  | some tag => rw [Link.selectCommand_of_some htag]; exact .inl rfl

theorem Link.commitMotor_status (l : Link) (v : Word) : l.StatusKeptOrHeld (l.commitMotor v) := by
  unfold Link.commitMotor
  split
  · exact .inr rfl
  · exact .inl rfl

theorem Link.commitPid_status (l : Link) (p : Params) (v : Word) : l.StatusKeptOrHeld (l.commitPid p v) := by
  unfold Link.commitPid
  split
  · exact .inr rfl
  · split
    · exact .inr rfl
    · exact .inl rfl

theorem Link.onSep_status (l : Link) (p : Params) (b : Byte) : l.StatusKeptOrHeld (l.onSep p b) := by
  cases hphase : l.phase with
  | idle => rw [Link.onSep, hphase]; exact .inl rfl
  | readCommand => rw [Link.onSep_of_readCommand hphase]; exact (l.foldRx b).clearAcc.selectCommand_status p _
  | readMotorValues => rw [Link.onSep_of_readMotorValues hphase]; exact (l.foldRx b).clearAcc.commitMotor_status _
  | readPidAngle => rw [Link.onSep_of_readPidAngle hphase]; exact (l.foldRx b).clearAcc.commitPid_status p _
  | validateChecksum => rw [Link.onSep_of_validateChecksum hphase]; exact .inr rfl

theorem Link.endFrame_status (l : Link) (c : Half) : (l.endFrame c).status.heldByParser = true := by
  unfold Link.endFrame
  cases checksumMatches l.acc c <;> rfl

theorem Link.onEnd_status {l l' : Link} (h : l.onEnd = .next l') : l.StatusKeptOrHeld l' := by
  cases hphase : l.phase with
  | idle => rw [Link.onEnd, hphase] at h; cases h; exact .inl rfl
  | readCommand | readMotorValues | readPidAngle => rw [Link.onEnd, hphase] at h; cases h; exact .inr rfl
  | validateChecksum =>
    cases hrx : l.rx with
    | none => simp [Link.onEnd, hphase, hrx] at h
    | some c =>
      rw [Link.onEnd_of_validateChecksum hphase hrx] at h
      cases h
      exact .inr (l.endFrame_status c)

theorem Link.onOther_status (l : Link) : l.StatusKeptOrHeld l.onOther := by
  by_cases h : l.phase = .idle
  · rw [Link.onOther, h]; exact .inl rfl
  · rw [Link.onOther_of_reading h]; exact .inr rfl

/-- A received byte brings none but R27's codes into the status register, whatever stood there. -/
theorem Link.receive_status {l l' : Link} {p : Params} {c : ByteClass} {b : Byte} (h : l.receive p c b = .next l') :
    l.StatusKeptOrHeld l' := by
  cases c with
  | start => cases h; exact .inr rfl
  | sep => cases h; exact l.onSep_status p b
  | fin => exact Link.onEnd_status h
  | hex d =>
    cases h
    obtain ⟨-, -, hstatus, -⟩ := l.onHex_sameShape b d
    exact .inl hstatus
  | other => cases h; exact l.onOther_status

/-- No instruction brings any but R27's codes into the status register. -/
theorem onInstance_status {i : Instr} {p : Params} {k : Nat} {l l' : Link} (h : onInstance i p k l = .next l') :
    l.StatusKeptOrHeld l' := by
  obtain ⟨-, m, -, rfl⟩ | hkept | ⟨-, c, b, h⟩ := onInstance_next h
  · exact .inr rfl
  · obtain ⟨-, -, hstatus, -⟩ := hkept.sameShape
    exact .inl hstatus
  · exact Link.receive_status h

/-- At most one response more, with the status register's own code or one that the engine or CREATE answers. -/
abbrev Link.AnswersAtMostOnce (l l' : Link) : Prop :=
  l'.responses = l.responses ∨ ∃ r, l'.responses = l.responses ++ [r] ∧
    (r.st = l.status ∨ r.st ∈ [Status.ok, .invalidInstance, .lengthError])

theorem frameResponse_st (cap : Half) (out : List Byte) :
    (frameResponse cap out).st = .ok ∨ (frameResponse cap out).st = .lengthError := by
  unfold frameResponse
  split
  · exact .inr rfl
  · exact .inl rfl

theorem Link.wire_responses {l l' : Link} {p : Params} {c : ByteClass} {b : Byte} (h : l.wire p c b = .next l') :
    l'.responses = l.responses := by
  obtain ⟨-, -, hresponses, -⟩ := Link.wire_frame h
  exact hresponses

/-- What an instruction answers (R55): nothing for a received byte, one response for any other. -/
theorem onInstance_responses {i : Instr} {p : Params} {k : Nat} {l l' : Link} (h : onInstance i p k l = .next l') :
    l.AnswersAtMostOnce l' := by
  induction i using instr_by_row with
  | create s u e =>
    obtain ⟨-, -, rfl⟩ := Link.create_eq_next.mp h
    exact .inr ⟨_, rfl, .inr (by simp [Response.st])⟩
  | rxByte b => exact .inl (Link.wire_responses h)
  | lastError =>
    obtain ⟨-, h⟩ | ⟨-, h⟩ := Link.ifBound_eq_next.mp h <;> cases h
    · exact .inr ⟨_, rfl, .inr (by simp [Response.st])⟩
    · exact .inr ⟨_, rfl, .inl rfl⟩
  | crcReset | crcUpdate b =>
    obtain ⟨-, h⟩ | ⟨-, h⟩ := Link.ifBound_eq_next.mp h <;> cases h <;>
      exact .inr ⟨_, rfl, .inr (by simp [Response.st])⟩
  | crcValue =>
    obtain ⟨-, h⟩ | ⟨hb, -⟩ := Link.ifBound_eq_next.mp h
    · cases h; exact .inr ⟨_, rfl, .inr (by simp [Response.st])⟩
    · cases htx : l.tx with
      | none => cases (Link.crcValue_of_none hb htx k).symm.trans h
      | some v =>
        cases (Link.crcValue_of_some hb htx k).symm.trans h
        exact .inr ⟨_, rfl, .inr (by simp [Response.st])⟩
  | frame cap payload =>
    obtain ⟨-, h⟩ | ⟨-, h⟩ := Link.ifBound_eq_next.mp h <;> cases h
    · exact .inr ⟨_, rfl, .inr (by simp [Response.st])⟩
    · refine .inr ⟨_, rfl, .inr ?_⟩
      obtain hok | hshort := frameResponse_st cap (datagramOf l.markers payload Config.frameChecksumRadix)
      · simp [hok]
      · simp [hshort]
  | wire i hi =>
    obtain ⟨c, hc⟩ := onInstance_of_wireByte hi
    exact .inl (Link.wire_responses (hc p k l ▸ h))

/-- R100 of one instance. -/
abbrev Link.NoInvalidPointer (l : Link) : Prop :=
  l.status ≠ .invalidPointer ∧ ∀ r ∈ l.responses, r.st ≠ .invalidPointer

/-- No instruction brings `InvalidPointer` into its instance (R100): R27's codes and the answers are others. -/
theorem onInstance_noInvalidPointer {i : Instr} {p : Params} {k : Nat} {l l' : Link} (hl : l.NoInvalidPointer)
    (h : onInstance i p k l = .next l') : l'.NoInvalidPointer := by
  obtain ⟨hstatus, hresponses⟩ := hl
  refine ⟨?_, ?_⟩
  · obtain hsame | hheld := onInstance_status h
    · rwa [hsame]
    · intro hpointer; rw [hpointer] at hheld; cases hheld
  · obtain hsame | ⟨r, hmore, hst⟩ := onInstance_responses h
    · rwa [hsame]
    · have hr : r.st ≠ .invalidPointer := by
        obtain hst | hst := hst
        · rwa [hst]
        · intro hpointer; simp [hpointer] at hst
      rw [hmore]
      exact List.forall_mem_append.mpr ⟨hresponses, List.forall_mem_singleton.mpr hr⟩

/-- Settles O47: each instance after the step was there before it, changed by at most one instruction. -/
theorem invalidPointerIsNeverProduced : Obligations.InvalidPointerIsNeverProduced := by
  intro s s' hstep hs l' hl'
  obtain ⟨j, hj⟩ := List.mem_iff_getElem?.mp hl'
  obtain hsame | ⟨i, l, hl, hi⟩ := step_next_link hstep hj
  · exact hs l' (List.mem_of_getElem? hsame)
  · exact onInstance_noInvalidPointer (hs l (List.mem_of_getElem? hl)) hi

/-! ## CREATE -/

theorem Link.create_of_bound {l : Link} (hb : l.bound = true) (m : Markers) : l.create m = .refused .alreadyCreated :=
  if_pos hb

theorem Link.create_of_illegal {l : Link} (hb : l.bound = false) {m : Markers} (hm : m.legal = false) :
    l.create m = .refused .illegalMarkers := by simp [Link.create, hb, hm]

/-- What illegal markers are (R97): two of them equal, or one of them a digit. -/
theorem Markers.legal_eq_false_iff {m : Markers} : m.legal = false ↔ m.start = m.sep ∨ m.start = m.fin ∨ m.sep = m.fin ∨
    isHex m.start = true ∨ isHex m.sep = true ∨ isHex m.fin = true := by
  rw [← Bool.not_eq_true, Markers.legal_iff]
  simp only [not_and_or, ne_eq, not_not, Bool.not_eq_false]

/-- Settles O12: by whether the instance is created, and whether the markers are legal. -/
theorem createBindsAnUnboundInstance : Obligations.CreateBindsAnUnboundInstance := by
  refine ⟨fun _ _ _ _ => rfl, fun s l a u e hl => ⟨fun hb => ?_, fun hb hm => ?_, fun hb hau hae hue ha hu he => ?_⟩⟩
  · rw [exec_of_get hl, onInstance, Link.create_of_bound hb, State.putOutcome_refused]
  · have hillegal : Markers.legal ⟨a, u, e⟩ = false := Markers.legal_eq_false_iff.mpr hm
    rw [exec_of_get hl, onInstance, Link.create_of_illegal hb hillegal, State.putOutcome_refused]
  · have hlegal : Markers.legal ⟨a, u, e⟩ = true := Markers.legal_iff.mpr ⟨hau, hae, hue, ha, hu, he⟩
    exact exec_of_sel hl (Link.create_eq_next.mpr ⟨hb, hlegal, rfl⟩)

/-! ## An instance not created -/

/-- An instance not created drops every received byte (R99). -/
theorem exec_receivedByte_of_unbound {s : State} {l : Link} (hl : s.links[s.sel]? = some l) (hb : l.bound = false)
    {i : Instr} (hi : receivedByte i = true) : exec i s = .next s := by
  obtain ⟨c, b, hwire⟩ := onInstance_of_receivedByte hi
  rw [exec_of_get hl, hwire, Link.wire_of_unbound hb, State.putOutcome_next, State.putLink_self l s hl]

/-- Settles O13: a received byte is dropped, and the host operations take the unbound side of their split. -/
theorem unboundOperationsChangeNothing : Obligations.UnboundOperationsChangeNothing := by
  intro s l hl hb
  refine ⟨fun i hi => exec_receivedByte_of_unbound hl hb hi, fun i hi => ?_, ?_, fun cap payload => ?_⟩
  · obtain rfl | rfl | ⟨b, rfl⟩ := hi <;> exact exec_of_sel hl (Link.ifBound_of_unbound hb _ _)
  · exact ⟨_, exec_of_sel hl (Link.ifBound_of_unbound hb _ _)⟩
  · exact exec_of_sel hl (Link.ifBound_of_unbound hb _ _)

/-! ## LAST_ERROR -/

theorem Link.lastError_eq (l : Link) :
    l.lastError = .next (l.respond (.status (if l.bound then l.status else .invalidInstance))) := by
  cases hb : l.bound with
  | false => exact Link.ifBound_of_unbound hb _ _
  | true => exact Link.ifBound_of_bound hb _ _

/-- Settles O14: by whether the instance is created; the invariant holds the status to R27's codes. -/
theorem lastErrorReturnsTheStatus : Obligations.LastErrorReturnsTheStatus := by
  refine ⟨fun _ => rfl, fun s l hl => ⟨exec_of_sel hl l.lastError_eq, fun hs hb => ?_⟩⟩
  obtain ⟨-, -, -, -, -, -, hheld, -⟩ := (hs l (List.mem_of_getElem? hl)).1 hb
  exact Status.heldByParser_iff.mp hheld

end Sys2Proof.Machine
end

section
/-! SUPPORT. How an instruction that does not complete ends (R106): the one fault and the two refusals there are, and what a fault or
a refusal leaves to the other instances. -/

namespace Sys2Proof.Machine

open Sys2Proof

/-! ## The stops of an instruction -/

/-- A received byte of any class completes wherever R28 (c) holds (R76). -/
theorem Link.wire_completes {l : Link} (hc : l.HasCrcInFrame) (p : Params) (c : ByteClass) (b : Byte) :
    ∃ l', l.wire p c b = .next l' := by
  cases hb : l.bound with
  | false => exact ⟨l, Link.wire_of_unbound hb p c b⟩
  | true =>
    rw [Link.wire_of_bound hb]
    cases ho : l.receive p c b with
    | next l' => exact ⟨l', rfl⟩
    | fault r =>
      obtain ⟨-, hphase, hrx, -⟩ := Link.receive_eq_fault.mp ho
      exact absurd hrx (hc hb (by simp [hphase]))
    | refused r => exact absurd ho Link.receive_ne_refused

/-- An operation that completes on either side of the bound split completes. -/
theorem Link.ifBound_completes (l u b : Link) : ∃ l', l.ifBound (.next u) (.next b) = .next l' := by
  cases hb : l.bound with
  | false => exact ⟨u, Link.ifBound_of_unbound hb _ _⟩
  | true => exact ⟨b, Link.ifBound_of_bound hb _ _⟩

/-- CREATE of these markers on this instance is refused as `r` (R98). -/
def Link.RefusesCreate (l : Link) (m : Markers) (r : Refusal) : Prop :=
  (r = .alreadyCreated ∧ l.bound = true) ∨ (r = .illegalMarkers ∧ l.bound = false ∧ m.legal = false)

/-- CREATE completes or is refused by name (R98). -/
theorem Link.create_ends (l : Link) (m : Markers) :
    (∃ l', l.create m = .next l') ∨ ∃ r, l.create m = .refused r ∧ l.RefusesCreate m r := by
  cases hb : l.bound with
  | true => exact .inr ⟨_, Link.create_of_bound hb m, .inl ⟨rfl, hb⟩⟩
  | false =>
    cases hm : m.legal with
    | true => exact .inl ⟨_, Link.create_eq_next.mpr ⟨hb, hm, rfl⟩⟩
    | false => exact .inr ⟨_, Link.create_of_illegal hb hm, .inr ⟨rfl, hb, hm⟩⟩

/-- CRC_VALUE completes, or faults on a created instance whose transmit context was never reset (R64). -/
theorem Link.crcValue_ends (l : Link) (k : Nat) :
    (∃ l', l.crcValue k = .next l') ∨ (l.crcValue k = .fault .undefinedRead ∧ l.bound = true ∧ l.tx = none) := by
  cases hb : l.bound with
  | false => exact .inl ⟨_, Link.ifBound_of_unbound hb _ _⟩
  | true =>
    cases htx : l.tx with
    | none => exact .inr ⟨Link.crcValue_of_none hb htx k, rfl, rfl⟩
    | some v => exact .inl ⟨_, Link.crcValue_of_some hb htx k⟩

/-- The three ways an instruction ends where R28 (c) holds: it completes, it is CRC_VALUE and faults, or it is CREATE and is
refused. -/
theorem onInstance_ends {l : Link} (hc : l.HasCrcInFrame) (p : Params) (k : Nat) (i : Instr) :
    (∃ l', onInstance i p k l = .next l') ∨
    (onInstance i p k l = .fault .undefinedRead ∧ i = .crcValue ∧ l.bound = true ∧ l.tx = none) ∨
    ∃ a u e r, onInstance i p k l = .refused r ∧ i = .create a u e ∧ l.RefusesCreate ⟨a, u, e⟩ r := by
  induction i using instr_by_row with
  | create a u e => exact (l.create_ends ⟨a, u, e⟩).imp_right fun ⟨r, ho, hr⟩ => .inr ⟨a, u, e, r, ho, rfl, hr⟩
  | crcValue => exact (l.crcValue_ends k).imp_right fun ⟨ho, hb, htx⟩ => .inl ⟨ho, rfl, hb, htx⟩
  | rxByte b => exact .inl (Link.wire_completes hc p _ b)
  | lastError | crcReset | crcUpdate | frame => exact .inl (l.ifBound_completes _ _)
  | wire i hi =>
    obtain ⟨c, hwire⟩ := onInstance_of_wireByte hi
    exact .inl (hwire p k l ▸ Link.wire_completes hc p c _)

/-- Settles O46: the instance is missing, or its instruction ends in one of the three ways there are under the invariant. -/
theorem onlyCrcValueFaultsAndOnlyCreateIsRefused : Obligations.OnlyCrcValueFaultsAndOnlyCreateIsRefused := by
  intro i s hs
  have ends {l : Link} (hl : s.links[s.sel]? = some l) :=
    onInstance_ends (hs l (List.mem_of_getElem? hl)).hasCrcInFrame s.params s.sel i
  refine ⟨fun r h => ?_, fun r h => ?_⟩ <;> rw [exec_eq_onLink] at h
  · obtain ⟨l, hl, hf⟩ := onLink_eq_fault.mp h
    obtain ⟨l', ho⟩ | ⟨ho, hi, hb, htx⟩ | ⟨_, _, _, _, ho, -⟩ := ends hl <;> cases ho.symm.trans hf
    exact ⟨rfl, hi, l, hl, hb, htx⟩
  · obtain ⟨hl, hr⟩ | ⟨l, hl, hf⟩ := onLink_eq_refused.mp h
    · exact .inl ⟨hr, hl⟩
    · obtain ⟨l', ho⟩ | ⟨ho, -⟩ | ⟨a, u, e, _, ho, hi, hr⟩ := ends hl <;> cases ho.symm.trans hf
      exact .inr ⟨a, u, e, l, hi, hl, hr⟩

/-! ## What a stop leaves to the other instances -/

/-- The inputs of every instance but `k`. -/
def others (k : Nat) (q : List Input) : List Input := q.filter fun y => y.link != k

theorem others_cons_of_eq {k : Nat} {z : Input} (h : z.link = k) (q : List Input) : others k (z :: q) = others k q :=
  List.filter_cons_of_neg (by simp [h])

theorem others_cons_of_ne {k : Nat} {z : Input} (h : z.link ≠ k) (q : List Input) : others k (z :: q) = z :: others k q :=
  List.filter_cons_of_pos (by simp [h])

theorem waiting_others (k : Nat) (q : List Input) : waiting (others k q) = others k (waiting q) := List.filter_comm ..

theorem others_eq_nil_iff {k : Nat} {q : List Input} : others k q = [] ↔ ∀ y ∈ q, y.link = k := by simp [others]

/-- An operation that stops somewhere stops whatever waits around it. -/
theorem stopsWith_of_attempt {s : State} {x : Input} {st : Stop} (hx : x.spent = false) {before after : List Input}
    (h : attempt s x before after = st.outcome) : StopsWith s x st := by
  obtain ⟨st', hst⟩ | ⟨more, l', hc⟩ := stopsWith_or_completes s hx
  · intro b a
    rw [hst, ← hst before after, h]
  · exact absurd (h.symm.trans (hc.attempt before after)) (Stop.outcome_ne_next st _)

/-- Where the first waiting operation stops, a step goes on behind it with its instance stopped. -/
theorem step_of_head_stop {s : State} {x : Input} {rest : List Input} {st : Stop} (hi : s.input = x :: rest)
    (hx : x.spent = false) (h : StopsWith s x st) : step s = schedule s [x] [(x.link, st)] (waiting rest) := by
  rw [step, hi, waiting_cons_of_not_spent hx]
  exact schedule_cons_of_stop rfl (h [] _)

/-- Where a schedule of the other instances' inputs completes, so does one of all inputs with instance `k` stopped as well, with the
same instances: it skips `k`'s inputs and ends alike on each of the others. -/
theorem schedule_of_others_next {k : Nat} {s t : State} {stops stops' : List (Nat × Stop)} {q before before' : List Input}
    (hq : ∀ z ∈ q, z.spent = false) (hne : others k q ≠ [] ∨ stops' ≠ [])
    (hstops : ∀ j, isStopped stops j = (k == j || isStopped stops' j))
    (h : schedule s before' stops' (others k q) = .next t) :
    ∃ t', schedule s before stops q = .next t' ∧ t'.links = t.links ∧ t'.params = t.params := by
  induction q generalizing before before' stops stops' with
  | nil => exact absurd h (settle_ne_next (hne.resolve_left (· rfl)))
  | cons z q ih =>
    obtain ⟨hz, hq⟩ := List.forall_mem_cons.mp hq
    by_cases hk : z.link = k
    · rw [others_cons_of_eq hk] at hne h
      rw [schedule_cons_of_stopped (by simp [hstops, hk])]
      exact ih hq hne hstops h
    have hsame : isStopped stops z.link = isStopped stops' z.link := by
      rw [hstops, beq_false_of_ne (Ne.symm hk), Bool.false_or]
    rw [others_cons_of_ne hk] at h
    cases hs : isStopped stops' z.link with
    | true =>
      rw [schedule_cons_of_stopped hs] at h
      rw [schedule_cons_of_stopped (hsame.trans hs)]
      exact ih hq (.inr fun h0 => by simp [h0, isStopped] at hs) hstops h
    | false =>
      obtain ⟨st, hst⟩ | ⟨more, l', hc⟩ := stopsWith_or_completes s hz
      · rw [schedule_cons_of_stop hs (hst _ _)] at h
        rw [schedule_cons_of_stop (hsame.trans hs) (hst _ _)]
        exact ih hq (.inr (by simp)) (fun j => by rw [isStopped_cons, isStopped_cons, hstops, Bool.or_left_comm]) h
      · rw [schedule_cons_of_next hs (hc.attempt _ _)] at h
        cases h
        exact ⟨_, schedule_cons_of_next (hsame.trans hs) (hc.attempt _ _), rfl, rfl⟩

/-- A schedule that completes leaves what it passed over waiting, and a stopped instance as it was. -/
theorem schedule_next_keeps {s t : State} {x : Input} {st : Stop} {q : List Input} (hx : x.spent = false)
    (hq : ∀ z ∈ q, z.spent = false) (h : schedule s [x] [(x.link, st)] q = .next t) :
    x ∈ t.input ∧ t.links[x.link]? = s.links[x.link]? := by
  obtain ⟨-, h0⟩ | ⟨pre, y, after, rfl, hy, ha⟩ := schedule_next h
  · cases h0
  have hne : x.link ≠ y.link := by simpa [isStopped] using hy
  obtain ⟨sty, hst⟩ | ⟨more, l', hc⟩ := stopsWith_or_completes s (hq y (by simp))
  · exact absurd ((hst _ _).symm.trans ha) (Stop.outcome_ne_next sty t)
  · rw [hc.attempt] at ha
    cases ha
    refine ⟨?_, (s.sameAt_putLink hne _ l').2.symm⟩
    rw [State.putLink_input, State.address_input, List.append_assoc, List.singleton_append, waiting_cons_of_not_spent hx]
    exact List.mem_cons_self

/-- Settles O50: behind the stop the step is a schedule with the instance stopped, which leaves it alone, follows the schedule of the
other instances, and settles on the stop where none of them has anything waiting. -/
theorem aStopEndsItsInstanceOnly : Obligations.AStopEndsItsInstanceOnly := by
  intro s x rest st hi hx ha
  have hq : ∀ z ∈ waiting rest, z.spent = false := fun _ => not_spent_of_mem_waiting
  change (∀ t, step s = .next t → _) ∧
    (waiting (others x.link rest) ≠ [] → ∀ t, step (s.address s.sel (others x.link rest)) = .next t → _) ∧
    (waiting (others x.link rest) = [] → _)
  rw [step_of_head_stop hi hx (stopsWith_of_attempt hx ha)]
  refine ⟨fun t => schedule_next_keeps hx hq, fun hne t h => ?_, fun hnone => ?_⟩
  · rw [step_address s s.sel hne, waiting_others] at h
    rw [waiting_others] at hne
    exact schedule_of_others_next hq (.inl hne) (fun j => isStopped_cons _ _ j) h
  · rw [waiting_others, others_eq_nil_iff] at hnone
    exact schedule_of_all_stopped _ _ fun y hy => by simp [isStopped, hnone y hy]

end Sys2Proof.Machine
end

section
/-! SUPPORT. The machine after power-on reset (R117): how many instances there are, and what each of them holds. -/

namespace Sys2Proof.Machine

open Sys2Proof

/-- Reset gives instance 0 and its `extraLinks` companions: `N_LINKS` in all (R14). -/
@[simp] theorem State.reset_links_length : State.reset.links.length = Config.nLinks :=
  congrArg (· + 1) List.length_replicate

/-- Settles O1: instance 0 is always there, and every instance after reset is `Link.reset`, which holds R30's values. -/
theorem resetLeavesEveryInstanceUnbound : Obligations.ResetLeavesEveryInstanceUnbound := by
  refine ⟨State.reset_links_length, Nat.le_add_left 1 Config.extraLinks, fun l hl => ?_⟩
  rw [eq_reset_of_mem_reset hl]
  exact ⟨rfl, rfl, rfl, rfl⟩

end Sys2Proof.Machine
end

section
/-! SUPPORT. The operation decoder and the encoder undo each other (R55): the decoder reads an operation and hands back a rest exactly
where the operation is well-formed and its bytes stand before that rest. -/

namespace Sys2Proof.Machine

open Sys2Proof

/-! ## From an operation to its bytes and back -/

/-- The length of a payload that fits is what its 16-bit length field says (R66). -/
theorem payloadLength_toNat {payload : List Byte} (h : payloadFits payload = true) :
    (BitVec.ofNat 16 payload.length).toNat = payload.length :=
  (BitVec.toNat_ofNat _ _).trans (Nat.mod_eq_of_lt (of_decide_eq_true h))

/-- FRAME's operands with all of its payload there, and any bytes after it. -/
theorem decodeOperands_frame_append {cap : Half} {payload : List Byte} (h : payloadFits payload = true) (rest : List Byte) :
    decodeOperands .frame (halfBytes cap ++ halfBytes (BitVec.ofNat 16 payload.length) ++ payload ++ rest) =
      .ok (.frame cap payload, rest) := by
  have hlong : ¬ (payload ++ rest).length < payload.length := by simp
  simp only [halfBytes, List.cons_append, List.nil_append, decodeOperands, halfOfBytes_halfBytes, payloadLength_toNat h,
    if_neg hlong, List.take_left, List.drop_left]

/-- A well-formed operation is read back from its bytes, whatever follows them. -/
theorem decodeOp_encode_append {m : Markers} {i : Instr} (hf : i.format = .hostOp) (hw : i.wf m = true) (rest : List Byte) :
    decodeOp (encode m i ++ rest) = .ok (i, rest) := by
  cases i
  case create | rxByte | lastError | crcReset | crcUpdate | crcValue => rfl
  case frame cap payload => exact decodeOperands_frame_append hw rest
  all_goals cases hf

/-- Settles O4: each operation's operands stand in its bytes one after the other, and FRAME's length field says where its payload
ends. -/
theorem decodingAHostOperationsBytesGivesItBack : Obligations.DecodingAHostOperationsBytesGivesItBack :=
  fun _ _ rest hf hw => decodeOp_encode_append hf hw rest

/-! ## From bytes to an operation and back -/

/-- FRAME's bytes from its operands' four, where the length field is the payload's length. -/
theorem encode_frame_of_length (m : Markers) (capHi capLo nHi nLo : Byte) {payload : List Byte}
    (h : payload.length = (halfOfBytes nHi nLo).toNat) :
    encode m (.frame (halfOfBytes capHi capLo) payload) = Selector.frame.code :: capHi :: capLo :: nHi :: nLo :: payload := by
  simp only [encode, hostBytes?, Option.getD_some, halfBytes, h, BitVec.ofNat_toNat, BitVec.setWidth_eq,
    extract_high_halfOfBytes, extract_low_halfOfBytes, List.cons_append, List.nil_append]

/-- What the decoder reads after FRAME's selector is a well-formed FRAME, and the bytes it took are its operands. -/
theorem encode_of_decodeOperands_frame {capHi capLo nHi nLo : Byte} {bytes rest : List Byte} {i : Instr}
    (h : decodeOperands .frame (capHi :: capLo :: nHi :: nLo :: bytes) = .ok (i, rest)) (m : Markers) :
    i.format = .hostOp ∧ i.wf m = true ∧
      Selector.frame.code :: capHi :: capLo :: nHi :: nLo :: bytes = encode m i ++ rest := by
  simp only [decodeOperands] at h
  split at h
  next => cases h
  next hlong =>
    cases h
    have hlen : (bytes.take (halfOfBytes nHi nLo).toNat).length = (halfOfBytes nHi nLo).toNat :=
      List.length_take_of_le (Nat.not_lt.mp hlong)
    refine ⟨rfl, decide_eq_true (hlen.trans_lt (halfOfBytes nHi nLo).isLt), ?_⟩
    rw [encode_frame_of_length m capHi capLo nHi nLo hlen]
    simp only [List.cons_append, List.take_append_drop]

/-- What the decoder reads after a selector is a well-formed operation, and the bytes it took are the operation's. -/
theorem encode_of_decodeOperands {op : Selector} {bytes rest : List Byte} {i : Instr}
    (h : decodeOperands op bytes = .ok (i, rest)) (m : Markers) :
    i.format = .hostOp ∧ i.wf m = true ∧ op.code :: bytes = encode m i ++ rest := by
  match op, bytes with
  | .create, _ :: _ :: _ :: _ | .rxByte, _ :: _ | .lastError, _ | .crcReset, _ | .crcUpdate, _ :: _ | .crcValue, _ =>
    cases h
    exact ⟨rfl, rfl, rfl⟩
  | .frame, _ :: _ :: _ :: _ :: _ => exact encode_of_decodeOperands_frame h m
  | .create, [] | .create, [_] | .create, [_, _] | .rxByte, [] | .crcUpdate, []
  | .frame, [] | .frame, [_] | .frame, [_, _] | .frame, [_, _, _] => cases h

/-- Settles O5: a selector is read from its own code only, and the bytes after it are the operation's operands and the rest. -/
theorem decodedBytesAreTheOperationsEncoding : Obligations.DecodedBytesAreTheOperationsEncoding := by
  intro m bytes rest i h
  cases bytes with
  | nil => cases h
  | cons sel bytes =>
    cases hop : selectorOf sel with
    | none => simp [decodeOp, hop] at h
    | some op =>
      simp only [decodeOp, hop] at h
      rw [selectorOf_eq_some.mp hop]
      exact encode_of_decodeOperands h m

/-! ## Words written out -/

/-- Settles O8: the decoder, run on each word. -/
theorem writtenOutWordsDecode : Obligations.WrittenOutWordsDecode :=
  ⟨rfl, rfl, rfl, rfl, rfl, rfl, rfl, rfl, rfl, rfl, rfl⟩

end Sys2Proof.Machine
end

section
/-! SUPPORT. A step runs the instruction at the front of what was issued (R39, R102). -/

namespace Sys2Proof.Machine

open Sys2Proof

/-- The operation at the front of an input is `exec` of it on the input's instance, with the rest of the input still waiting. -/
theorem attempt_of_fetch {s : State} {x more : Input} {i : Instr} (hf : fetch s x = .instr i more) (rest : List Input) :
    attempt s x [] (waiting rest) = exec i (s.address x.link (waiting (more :: rest))) := by
  simp only [attempt, hf, List.nil_append, waiting_cons_waiting]

/-- A step runs the instruction of the first input wherever that completes, and ends as it ends where no other instance has an
operation waiting. -/
theorem step_of_fetch {s : State} {x more : Input} {i : Instr} {rest : List Input} (hi : s.input = x :: rest)
    (hx : x.spent = false) (hf : fetch s x = .instr i more) :
    (∀ t, exec i (s.address x.link (waiting (more :: rest))) = .next t → step s = .next t) ∧
    ((∀ y ∈ rest, y.link = x.link) → step s = exec i (s.address x.link (waiting (more :: rest)))) := by
  rw [← attempt_of_fetch hf]
  exact ⟨fun _ => step_of_head hi hx, step_of_only hi hx⟩

/-- With no byte waiting the machine holds all its state (R116). -/
theorem step_of_nothing_waiting {s : State} (h : waiting s.input = []) : step s = .next s := by
  rw [step, h]
  rfl

/-- Settles O9: an operation port's first operation and a received byte's row are what is fetched from the first input. -/
theorem aStepRunsTheIssuedInstruction : Obligations.AStepRunsTheIssuedInstruction := by
  refine ⟨fun s k l bytes more i rest hi hl hd => ?_, fun s k l b more rest hi hl => ?_, fun _ => step_of_nothing_waiting⟩
  · cases bytes with
    | nil => cases hd
    | cons b bytes =>
      have hf : fetch s (.op k (b :: bytes)) = .instr i (.op k more) := by simp only [fetch, hl, hd]
      exact step_of_fetch hi rfl hf
  · have hf : fetch s (.wire k (b :: more)) = .instr (decodeWire l.markers? b) (.wire k more) := by simp only [fetch, hl]
    exact step_of_fetch hi rfl hf

end Sys2Proof.Machine
end
